-- ==== Sys2Proof/Word.lean ====
section
/-! DEFINITION. The word types of `rle_core`, at the widths of 00_scope.md R6 and 30_encoding.md R70 to R74. -/

namespace Sys2Proof

/-- A payload byte, `u8`, all 256 values legal (R6 `BYTE_W`). -/
abbrev Byte := BitVec 8

/-- A run or unit count, `u16` (R6 `CNT_W`). -/
abbrev Count := BitVec 16

/-- A byte counter, `u32`, wrapping modulo 2^32 (R6 `XCNT_W`). -/
abbrev Counter := BitVec 32

/-- The input token word `tok[8:0]` (R70). -/
abbrev TokenWord := BitVec 9

/-- The control word `ctl[2:0]` (R71). -/
abbrev ControlWord := BitVec 3

/-- A long-form unit taken as one 32-bit word, its first byte in bits 31:24 (R74). -/
abbrev LongWord := BitVec 32

/-- The status word STATUS (R38). -/
abbrev StatusWord := BitVec 16

end Sys2Proof
end

