-- ==== Sys2Proof/Config.lean ====
section
/-! DEFINITION. The implementation parameters of 00_scope.md R6. All are fixed by the spec; no value is left free
(INVENTORY.md, "What the manual leaves open"), so there is no opaque constant here. `OVERFLOW_POLICY` is SPLIT and has
no other value (R6, C1): it is the rule R103 itself. -/

namespace Sys2Proof

/-- `MAX_COUNT` = 65535 = 0xFFFF, the largest count of one unit (R6). -/
def Config.maxCount : Count := 0xFFFF#16

/-- `LONG_LEN`: bytes of a long-form unit on the wire (R6). -/
def Config.longLen : Nat := 4

/-- `LIT_LEN`: bytes of a literal unit on the wire (R6). -/
def Config.litLen : Nat := 1

/-- `OBUF_DEPTH`: bytes the framer's output queue can hold (R6, D6). -/
def Config.obufDepth : Nat := 4

/-- `XCNT_W`: the counters' width in bits (R6, D14; log 9: fixed at the spec's 32). -/
def Config.xcntW : Nat := 32

end Sys2Proof
end

