-- ==== Sys2Proof/Syntax.lean ====
section
/-! DEFINITION. The syntax: modes, tokens, and ONE inductive of instructions, one constructor per row of
spec/opcode_table.json (28 rows). Bits an encoding ignores are kept as operands (log 14), so that decoding a word and
encoding it again gives the same word. -/

namespace Sys2Proof

/-- The job's mode (R21): ENC (compress) or DEC (decompress). -/
inductive Mode where
  | enc
  | dec
deriving DecidableEq, Repr

/-- The `mode` register's bit: 0 = ENC, 1 = DEC (R21, D24). -/
def Mode.bit : Mode → BitVec 1
  | .enc => 0#1
  | .dec => 1#1

/-- An input token (R11): a payload byte, or `End`, the transport's end-of-stream signal. -/
inductive Token where
  | byte (b : Byte)
  | eos
deriving DecidableEq, Repr

/-- The instructions: what the host, the source or the sink can present to the core. -/
inductive Instr where
  -- control words (R71)
  /-- RESET, `ctl = xx1`; `x` holds the ignored bits 2:1 (R200). -/
  | reset (x : BitVec 2)
  /-- START ENC, `ctl = 010` (R201, R202). -/
  | startEnc
  /-- START DEC, `ctl = 110` (R201, R202). -/
  | startDec
  /-- NOP, `ctl = x00`; `x` holds the ignored bit 2 (R71). -/
  | nop (x : BitVec 1)
  -- token words in ENC mode (R100)
  /-- ENC BYTE: `tok = 0 b` with `mode = 0`, dispatched by R100. -/
  | encByte (b : Byte)
  /-- ENC BYTE in `E_EMPTY` (R101). -/
  | encByteEEmpty (b : Byte)
  /-- ENC BYTE in `E_RUN`, equal byte below the cap (R102). -/
  | encByteExtend (b : Byte)
  /-- ENC BYTE in `E_RUN`, equal byte at the cap (R103). -/
  | encByteSplit (b : Byte)
  /-- ENC BYTE in `E_RUN`, different byte (R104). -/
  | encByteNewRun (b : Byte)
  /-- ENC END: `tok = 1 d` with `mode = 0`, dispatched by R100; `d` is ignored (R70). -/
  | encEnd (d : Byte)
  /-- ENC END in `E_EMPTY` (R105). -/
  | encEndEEmpty (d : Byte)
  /-- ENC END in `E_RUN` (R106). -/
  | encEndERun (d : Byte)
  -- token words in DEC mode (R130)
  /-- DEC BYTE: `tok = 0 b` with `mode = 1`, dispatched by R130. -/
  | decByte (b : Byte)
  /-- DEC BYTE in `D_EMPTY` (R131). -/
  | decByteDEmpty (b : Byte)
  /-- DEC BYTE in `D_HAVE1`, different byte (R132). -/
  | decByteLiteral (b : Byte)
  /-- DEC BYTE in `D_HAVE1`, equal byte (R133). -/
  | decByteMarker (b : Byte)
  /-- DEC BYTE in `D_CNTHI`, the count high byte (R134). -/
  | decByteCntHi (b : Byte)
  /-- DEC BYTE in `D_CNTLO`, the count low byte (R135). -/
  | decByteCntLo (b : Byte)
  /-- DEC END: `tok = 1 d` with `mode = 1`, dispatched by R130; `d` is ignored (R70). -/
  | decEnd (d : Byte)
  /-- DEC END in `D_EMPTY` (R136). -/
  | decEndDEmpty (d : Byte)
  /-- DEC END in `D_HAVE1` (R137). -/
  | decEndDHave1 (d : Byte)
  /-- DEC END in `D_CNTHI`: TruncatedStream, no count byte (R138). -/
  | decEndDCntHi (d : Byte)
  /-- DEC END in `D_CNTLO`: TruncatedStream, one count byte (R139). -/
  | decEndDCntLo (d : Byte)
  -- the output port (R72)
  /-- OUT: the sink takes one byte (R172). -/
  | out
  -- wire units (R73, R74, R77); `v` and `v2` are bytes 0 and 1 as they stand on the wire
  /-- LIT `V` (R73). -/
  | lit (v : Byte)
  /-- LONG `V V C_hi C_lo` (R74). -/
  | long (v v2 h l : Byte)
  /-- TRUNC0: `V V`, then End (R77). -/
  | trunc0 (v v2 : Byte)
  /-- TRUNC1: `V V C_hi`, then End (R77). -/
  | trunc1 (v v2 h : Byte)
deriving DecidableEq, Repr

/-- The row of the port word an instruction's word is: a state-dispatched case (R101 to R106, R131 to R139) has the
word of its port row (R100, R130); every other instruction is its own port row. -/
def Instr.portRow : Instr → Instr
  | .reset x => .reset x
  | .startEnc => .startEnc
  | .startDec => .startDec
  | .nop x => .nop x
  | .encByte b => .encByte b
  | .encByteEEmpty b => .encByte b
  | .encByteExtend b => .encByte b
  | .encByteSplit b => .encByte b
  | .encByteNewRun b => .encByte b
  | .encEnd d => .encEnd d
  | .encEndEEmpty d => .encEnd d
  | .encEndERun d => .encEnd d
  | .decByte b => .decByte b
  | .decByteDEmpty b => .decByte b
  | .decByteLiteral b => .decByte b
  | .decByteMarker b => .decByte b
  | .decByteCntHi b => .decByte b
  | .decByteCntLo b => .decByte b
  | .decEnd d => .decEnd d
  | .decEndDEmpty d => .decEnd d
  | .decEndDHave1 d => .decEnd d
  | .decEndDCntHi d => .decEnd d
  | .decEndDCntLo d => .decEnd d
  | .out => .out
  | .lit v => .lit v
  | .long v v2 h l => .long v v2 h l
  | .trunc0 v v2 => .trunc0 v v2
  | .trunc1 v v2 h => .trunc1 v v2 h

/-- The mode a row's constraint names (spec/opcode_table.json, "constraint"); `none` for a row that names none. -/
def Instr.rowMode : Instr → Option Mode
  | .reset _ => none
  | .startEnc => none
  | .startDec => none
  | .nop _ => none
  | .encByte _ => some .enc
  | .encByteEEmpty _ => some .enc
  | .encByteExtend _ => some .enc
  | .encByteSplit _ => some .enc
  | .encByteNewRun _ => some .enc
  | .encEnd _ => some .enc
  | .encEndEEmpty _ => some .enc
  | .encEndERun _ => some .enc
  | .decByte _ => some .dec
  | .decByteDEmpty _ => some .dec
  | .decByteLiteral _ => some .dec
  | .decByteMarker _ => some .dec
  | .decByteCntHi _ => some .dec
  | .decByteCntLo _ => some .dec
  | .decEnd _ => some .dec
  | .decEndDEmpty _ => some .dec
  | .decEndDHave1 _ => some .dec
  | .decEndDCntHi _ => some .dec
  | .decEndDCntLo _ => some .dec
  | .out => none
  | .lit _ => none
  | .long _ _ _ _ => none
  | .trunc0 _ _ => none
  | .trunc1 _ _ _ => none

/-- The token an instruction offers, for the token rows; `none` for every other row. -/
def Instr.token : Instr → Option Token
  | .reset _ => none
  | .startEnc => none
  | .startDec => none
  | .nop _ => none
  | .encByte b => some (.byte b)
  | .encByteEEmpty b => some (.byte b)
  | .encByteExtend b => some (.byte b)
  | .encByteSplit b => some (.byte b)
  | .encByteNewRun b => some (.byte b)
  | .encEnd _ => some .eos
  | .encEndEEmpty _ => some .eos
  | .encEndERun _ => some .eos
  | .decByte b => some (.byte b)
  | .decByteDEmpty b => some (.byte b)
  | .decByteLiteral b => some (.byte b)
  | .decByteMarker b => some (.byte b)
  | .decByteCntHi b => some (.byte b)
  | .decByteCntLo b => some (.byte b)
  | .decEnd _ => some .eos
  | .decEndDEmpty _ => some .eos
  | .decEndDHave1 _ => some .eos
  | .decEndDCntHi _ => some .eos
  | .decEndDCntLo _ => some .eos
  | .out => none
  | .lit _ => none
  | .long _ _ _ _ => none
  | .trunc0 _ _ => none
  | .trunc1 _ _ _ => none

end Sys2Proof
end

