-- ==== Sys2Proof/WellFormed.lean ====
section
/-! DEFINITION. Well-formed instructions: the constraint of spec/opcode_table.json that lies in the operands alone.
Only a long-form unit and its two truncated tails have one: bytes 0 and 1 are equal (R74 "must equal bits 31:24", R77).
Every other operand is exactly as wide as its field, so every other term is well formed (R70, R71, R80). -/

namespace Sys2Proof

def Instr.wellFormed : Instr → Bool
  | .reset _ => true
  | .startEnc => true
  | .startDec => true
  | .nop _ => true
  | .encByte _ => true
  | .encByteEEmpty _ => true
  | .encByteExtend _ => true
  | .encByteSplit _ => true
  | .encByteNewRun _ => true
  | .encEnd _ => true
  | .encEndEEmpty _ => true
  | .encEndERun _ => true
  | .decByte _ => true
  | .decByteDEmpty _ => true
  | .decByteLiteral _ => true
  | .decByteMarker _ => true
  | .decByteCntHi _ => true
  | .decByteCntLo _ => true
  | .decEnd _ => true
  | .decEndDEmpty _ => true
  | .decEndDHave1 _ => true
  | .decEndDCntHi _ => true
  | .decEndDCntLo _ => true
  | .out => true
  | .lit _ => true
  | .long v v2 _ _ => v == v2
  | .trunc0 v v2 => v == v2
  | .trunc1 v v2 _ => v == v2

end Sys2Proof
end

