-- ==== Sys2Proof/Decode.lean ====
section
/-! DEFINITION. Decoding and encoding (30_encoding.md). Three ports meet at the core, and a word means different things
on each: the control word (R71), the token word (R70) and the sink's take of the output byte (R72). The wire format
(R73 to R77) is a second encoding, carried by the token port: a unit is told by the equality of its first two bytes
(R75), not by fixed bits. Decoding is total and rejects by name. -/

namespace Sys2Proof

/-- What is presented on a port: a control word, a token word, the sink's take, or the token words of a wire unit. -/
inductive PortWord where
  | ctl (w : ControlWord)
  | tok (w : TokenWord)
  | take
  | wire (ws : List TokenWord)
deriving DecidableEq, Repr

/-- Why a wire unit cannot be read from the token words at hand. -/
inductive Reject where
  /-- No token word is at hand. -/
  | emptyStream
  /-- The first token is `End`: the stream has ended at a unit boundary, and no unit is left (R76). -/
  | endAtBoundary
  /-- Bits 23:16 of a 32-bit word differ from bits 31:24: it is no long-form unit (R74). -/
  | noMarker
  /-- The token words at hand stop before the unit's form is decided, and without `End` (R75). -/
  | undecided
deriving DecidableEq, Repr

/-! ### Token words (R70) -/

/-- Field `E` of a token word, bit 8: set for `End`. -/
def tokE (w : TokenWord) : Bool := w.getLsbD 8

/-- Field `D` of a token word, bits 7:0. -/
def tokD (w : TokenWord) : Byte := w.extractLsb' 0 8

/-- The token word with fields `E` and `D`. -/
def tokWord (e : Bool) (d : Byte) : TokenWord := BitVec.ofBool e ++ d

/-- The token a token word is: `D` is ignored when `E = 1` (R70). -/
def tokenOf (w : TokenWord) : Token := if tokE w then .eos else .byte (tokD w)

/-- The canonical word of a token: `{0, b}`, and 0x100 for `End` (R70). -/
def wordOf : Token → TokenWord
  | .byte b => tokWord false b
  | .eos => tokWord true 0#8

/-- The token row of a token word in a mode: ENC BYTE, ENC END, DEC BYTE or DEC END (R83). -/
def decodeTok (m : Mode) (w : TokenWord) : Instr :=
  match m with
  | .enc => if tokE w then .encEnd (tokD w) else .encByte (tokD w)
  | .dec => if tokE w then .decEnd (tokD w) else .decByte (tokD w)

/-! ### Control words (R71) -/

/-- The control step of a control word: `xx1` RESET, `010` START ENC, `110` START DEC, `x00` NOP. -/
def decodeCtl (w : ControlWord) : Instr :=
  if w.getLsbD 0 then .reset (w.extractLsb' 1 2)
  else if w.getLsbD 1 then (if w.getLsbD 2 then .startDec else .startEnc)
  else .nop (w.extractLsb' 2 1)

/-! ### Wire units (R73 to R77) -/

/-- The next wire unit of a token stream and the token words after it, by R75: byte 1 equal to byte 0 makes a long-form
unit of four bytes, anything else (a different byte, or `End`) a literal of one; `End` inside a long-form unit makes
TRUNC0 or TRUNC1, which take the `End` with them (R77). -/
def decodeUnit (ws : List TokenWord) : Except Reject (Instr × List TokenWord) :=
  match ws with
  | [] => .error .emptyStream
  | w0 :: r0 =>
    if tokE w0 then .error .endAtBoundary
    else match r0 with
      | [] => .error .undecided
      | w1 :: r1 =>
        if tokE w1 || tokD w1 != tokD w0 then .ok (.lit (tokD w0), r0)
        else match r1 with
          | [] => .error .undecided
          | w2 :: r2 =>
            if tokE w2 then .ok (.trunc0 (tokD w0) (tokD w1), r2)
            else match r2 with
              | [] => .error .undecided
              | w3 :: r3 =>
                if tokE w3 then .ok (.trunc1 (tokD w0) (tokD w1) (tokD w2), r3)
                else .ok (.long (tokD w0) (tokD w1) (tokD w2) (tokD w3), r3)

/-! ### A long-form unit as a 32-bit word (R74) -/

/-- The word of a long-form unit: `V` in bits 31:24, `V` in bits 23:16, `C_hi` in bits 15:8, `C_lo` in bits 7:0. -/
def longWord (v v2 h l : Byte) : LongWord := v ++ v2 ++ h ++ l

/-- Bits 31:24, the unit's value and its first byte in the stream. -/
def longV (w : LongWord) : Byte := w.extractLsb' 24 8

/-- Bits 23:16, the value again: "must equal bits 31:24". -/
def longV2 (w : LongWord) : Byte := w.extractLsb' 16 8

/-- Bits 15:8, `C_hi`. -/
def longHi (w : LongWord) : Byte := w.extractLsb' 8 8

/-- Bits 7:0, `C_lo`, the last byte in the stream. -/
def longLo (w : LongWord) : Byte := w.extractLsb' 0 8

/-- The four bytes of the word in stream order. -/
def longBytes (w : LongWord) : List Byte := [longV w, longV2 w, longHi w, longLo w]

/-- The long-form unit of a 32-bit word; a word without the doubled marker is none. -/
def decodeLongWord (w : LongWord) : Except Reject Instr :=
  if longV2 w = longV w then .ok (.long (longV w) (longV2 w) (longHi w) (longLo w)) else .error .noMarker

/-- Decoding of what a port presents, in a mode: the instruction and the token words left of `rest`, those that follow. -/
def decode (m : Mode) (p : PortWord) (rest : List TokenWord) : Except Reject (Instr × List TokenWord) :=
  match p with
  | .ctl w => .ok (decodeCtl w, rest)
  | .tok w => .ok (decodeTok m w, rest)
  | .take => .ok (.out, rest)
  | .wire ws => decodeUnit (ws ++ rest)

/-! ### The encoder -/

/-- The tokens of a wire unit, in stream order (R73, R74, R77); none for the other rows. -/
def unitTokens : Instr → List Token
  | .reset _ => []
  | .startEnc => []
  | .startDec => []
  | .nop _ => []
  | .encByte _ => []
  | .encByteEEmpty _ => []
  | .encByteExtend _ => []
  | .encByteSplit _ => []
  | .encByteNewRun _ => []
  | .encEnd _ => []
  | .encEndEEmpty _ => []
  | .encEndERun _ => []
  | .decByte _ => []
  | .decByteDEmpty _ => []
  | .decByteLiteral _ => []
  | .decByteMarker _ => []
  | .decByteCntHi _ => []
  | .decByteCntLo _ => []
  | .decEnd _ => []
  | .decEndDEmpty _ => []
  | .decEndDHave1 _ => []
  | .decEndDCntHi _ => []
  | .decEndDCntLo _ => []
  | .out => []
  | .lit v => [.byte v]
  | .long v v2 h l => [.byte v, .byte v2, .byte h, .byte l]
  | .trunc0 v v2 => [.byte v, .byte v2, .eos]
  | .trunc1 v v2 h => [.byte v, .byte v2, .byte h, .eos]

/-- The word or words of an instruction, on its port (R70 to R74, R77, R83). -/
def encode : Instr → PortWord
  | .reset x => .ctl (x ++ 1#1)
  | .startEnc => .ctl 0b010#3
  | .startDec => .ctl 0b110#3
  | .nop x => .ctl (x ++ 0b00#2)
  | .encByte b => .tok (tokWord false b)
  | .encByteEEmpty b => .tok (tokWord false b)
  | .encByteExtend b => .tok (tokWord false b)
  | .encByteSplit b => .tok (tokWord false b)
  | .encByteNewRun b => .tok (tokWord false b)
  | .encEnd d => .tok (tokWord true d)
  | .encEndEEmpty d => .tok (tokWord true d)
  | .encEndERun d => .tok (tokWord true d)
  | .decByte b => .tok (tokWord false b)
  | .decByteDEmpty b => .tok (tokWord false b)
  | .decByteLiteral b => .tok (tokWord false b)
  | .decByteMarker b => .tok (tokWord false b)
  | .decByteCntHi b => .tok (tokWord false b)
  | .decByteCntLo b => .tok (tokWord false b)
  | .decEnd d => .tok (tokWord true d)
  | .decEndDEmpty d => .tok (tokWord true d)
  | .decEndDHave1 d => .tok (tokWord true d)
  | .decEndDCntHi d => .tok (tokWord true d)
  | .decEndDCntLo d => .tok (tokWord true d)
  | .out => .take
  | .lit v => .wire ((unitTokens (.lit v)).map wordOf)
  | .long v v2 h l => .wire ((unitTokens (.long v v2 h l)).map wordOf)
  | .trunc0 v v2 => .wire ((unitTokens (.trunc0 v v2)).map wordOf)
  | .trunc1 v v2 h => .wire ((unitTokens (.trunc1 v v2 h)).map wordOf)

/-- What R75 asks of the token after an instruction: after a literal `V` stands a token that is not `Byte(V)`. The other
rows ask nothing. -/
def lookaheadOk (i : Instr) (rest : List TokenWord) : Bool :=
  match i, rest with
  | .lit _, [] => false
  | .lit v, w :: _ => tokenOf w != .byte v
  | _, _ => true

/-! ### The table's numbering (log 10)

The opcode table gives a row's bits without saying on which port they stand. A row of at most 8 bits whose value fits
3 bits is a control word; one of 9 to 16 bits whose value fits 9 bits is a token word, read in the reset mode ENC; all
else is a wire unit as one number, its first byte in the highest bits (R73, R74; log 15 for the truncated tails), and
then `End`. -/

/-- The `n` bytes of `w` in stream order, the first byte in the highest bits: for `n = 4` those of R74's word. -/
def wireBytes : Nat → Nat → List Byte
  | 0, _ => []
  | n + 1, w => BitVec.ofNat 8 (w / 256 ^ n) :: wireBytes n w

/-- The port word that a table row's bits are. -/
def tablePortWord (nbits w : Nat) : PortWord :=
  if nbits ≤ 8 ∧ w < 8 then .ctl (BitVec.ofNat 3 w)
  else if 8 < nbits ∧ nbits ≤ 16 ∧ w < 512 then .tok (BitVec.ofNat 9 w)
  else .wire ((wireBytes ((nbits + 7) / 8) w).map (tokWord false) ++ [wordOf .eos])

/-- The mode in which a table row's word is read: ENC, the mode after reset (R39), for a token word; DEC for a wire
unit, which only the decoder parses. -/
def tableMode : PortWord → Mode
  | .ctl _ => .enc
  | .tok _ => .enc
  | .take => .enc
  | .wire _ => .dec

def decodeTableWord (nbits w : Nat) : Option Instr :=
  match decode (tableMode (tablePortWord nbits w)) (tablePortWord nbits w) [] with
  | .ok (i, _) => some i
  | .error _ => none

end Sys2Proof
end

