-- ==== Sys2Proof/Machine/State.lean ====
section
/-! DEFINITION. The state of `rle_core` (10_state.md R20 to R32), the two streams it reaches (20_memory.md R50), the
hosts' next moves as plain data (log 1), the reasons a step can stop, and the state after reset (R39). There is no
memory, no program counter and no register file (R41, R43, R50). -/

namespace Sys2Proof.Machine

/-- The control state `st` (R20). Codes 9 to 15 are never written and have no constructor (I6, log 7). -/
inductive Ctrl where
  /-- No job; after reset. -/
  | idle
  /-- Encode job, no run open. -/
  | eEmpty
  /-- Encode job, a run is open. -/
  | eRun
  /-- Decode job, at a unit boundary, no lookahead byte held. -/
  | dEmpty
  /-- Decode job, one lookahead byte held. -/
  | dHave1
  /-- Decode job, doubled marker seen; the count high byte comes next. -/
  | dCntHi
  /-- Decode job, count high byte held; the count low byte comes next. -/
  | dCntLo
  /-- `End` accepted, no error. -/
  | done
  /-- `End` accepted inside a long-form unit. -/
  | error
deriving DecidableEq, Repr

/-- The code of a control state, the STATUS field `ST` (R20, R38). -/
def Ctrl.code : Ctrl → BitVec 4
  | .idle => 0#4
  | .eEmpty => 1#4
  | .eRun => 2#4
  | .dEmpty => 3#4
  | .dHave1 => 4#4
  | .dCntHi => 5#4
  | .dCntLo => 6#4
  | .done => 7#4
  | .error => 8#4

/-- The set `ACTIVE` of R20. -/
def Ctrl.active : Ctrl → Bool
  | .idle => false
  | .eEmpty => true
  | .eRun => true
  | .dEmpty => true
  | .dHave1 => true
  | .dCntHi => true
  | .dCntLo => true
  | .done => false
  | .error => false

/-- The error cause `err_code` (R29, R230). Codes 2 and 3 are never written and have no constructor (I6, log 7). -/
inductive ErrCode where
  | none
  | truncated
deriving DecidableEq, Repr

/-- The code of an error cause, the STATUS field `ERR_CODE` (R29, R38). -/
def ErrCode.code : ErrCode → BitVec 2
  | .none => 0#2
  | .truncated => 1#2

/-- The framer's output queue `obuf` (R26): the byte registers `obuf0` to `obuf3`, of which the first `olen` hold bytes.
`olen` 5 to 7 are never written and cannot be said (I6, log 7). -/
inductive OutQueue where
  | empty
  | one (a : Byte)
  | two (a b : Byte)
  | three (a b c : Byte)
  | four (a b c d : Byte)
deriving DecidableEq, Repr

/-- The queue as the spec writes it, a list, first element first (R26). -/
def OutQueue.toList : OutQueue → List Byte
  | .empty => []
  | .one a => [a]
  | .two a b => [a, b]
  | .three a b c => [a, b, c]
  | .four a b c d => [a, b, c, d]

/-- A slot: which agent acts next (R7, R8 "who starts it"; log 1). A slot whose step is not enabled passes with nothing
changed (log 2). -/
inductive HostMove where
  /-- The host presents a control word (R71). -/
  | ctl (w : ControlWord)
  /-- The source offers its head token (R204). -/
  | tok
  /-- The sink takes a byte (R172). -/
  | out
  /-- The source offers the tokens of one whole wire unit, one after the other, while the sink takes what is in their
  way (R55: a host that moves blocks splits them into single-byte steps; log 4). -/
  | unit
  /-- A control word, and in the same cycle an offer and a take where the flags are set (R237; log 11). -/
  | together (w : ControlWord) (offer take : Bool)
deriving DecidableEq, Repr

/-- The state: the registers of R39's table, in its order; then the streams and the slots to come. -/
structure State where
  /-- R20 -/
  st : Ctrl
  /-- R21 -/
  mode : Mode
  /-- R22 -/
  runVal : Byte
  /-- R23 -/
  runCnt : Count
  /-- R24 -/
  pend : Byte
  /-- R25 -/
  chi : Byte
  /-- R26 -/
  obuf : OutQueue
  /-- R27 -/
  repVal : Byte
  /-- R28 -/
  repCnt : Count
  /-- R29 -/
  errCode : ErrCode
  /-- R30 -/
  errInfo : BitVec 1
  /-- R31 -/
  inCount : Counter
  /-- R32 -/
  outCount : Counter
  /-- The input stream: the token words the source still holds, the one on offer first (R50, R51). -/
  source : List TokenWord
  /-- The output stream: the bytes emitted, first byte first (R50, R52). -/
  sink : List Byte
  /-- The slots to come, the next one first (the model's own; log 1). -/
  agenda : List HostMove
deriving DecidableEq, Repr

/-- Why the machine stops with a fault. -/
inductive Fault where
  /-- Raised by the input step when `in_ready = 1` in a control state of the other mode (R40 item 1 says that no
  reachable state is so, and R100 and R130 give it no row). Safe: the model stops where the spec gives nothing (log 5). -/
  | modeStateMismatch
deriving DecidableEq, Repr

/-- Why an instruction has no meaning. -/
inductive Refusal where
  /-- An instruction that has no meaning yet; no arm of `exec` uses it. Safe. -/
  | notModelled (mnemonic : String)
  /-- Raised by the framer when it is asked for a frame of count 0, which is outside its domain (R170, I10 `refuse`);
  R107 and R40 item 2 say that no reachable state asks it. Safe: the model stops where the spec refuses (log 6). -/
  | frameOfZero
deriving DecidableEq, Repr

/-- The machine right after reset: every register as R39's table says; no token with the source, no byte with the sink,
no slot to come (log 1). -/
def State.reset : State where
  st := .idle
  mode := .enc
  runVal := 0x00#8
  runCnt := 0x0000#16
  pend := 0x00#8
  chi := 0x00#8
  obuf := .empty
  repVal := 0x00#8
  repCnt := 0x0000#16
  errCode := .none
  errInfo := 0#1
  inCount := 0#32
  outCount := 0#32
  source := []
  sink := []
  agenda := []

end Sys2Proof.Machine
end

