-- ==== Sys2Proof/Machine/Operands.lean ====
section
/-! DEFINITION. Operand forms: how a step puts bytes together and takes them apart. The token word's fields are in
Decode.lean, where decoding needs them. -/

namespace Sys2Proof.Machine

/-- The count of a long-form unit, big-endian: `{C_hi, C_lo}` (R53, R74). -/
def countOf (hi lo : Byte) : Count := hi ++ lo

/-- `C_hi`, bits 15:8 of a count (R74). -/
def countHi (c : Count) : Byte := c.extractLsb' 8 8

/-- `C_lo`, bits 7:0 of a count (R74). -/
def countLo (c : Count) : Byte := c.extractLsb' 0 8

/-- `frame(v, c)` for `1 ≤ c`: a literal unit for count 1, else a long-form unit (R170). -/
def frameBytes (v : Byte) (c : Count) : OutQueue :=
  if c = 1#16 then .one v else .four v v (countHi c) (countLo c)

/-- `frame(v, c)` (R170): count 0 is outside its domain (I10). -/
def frame (v : Byte) (c : Count) : Option OutQueue :=
  if c = 0#16 then none else some (frameBytes v c)

/-- Whether the output queue is `[]` (R26). -/
def OutQueue.isEmpty : OutQueue → Bool
  | .empty => true
  | .one _ => false
  | .two _ _ => false
  | .three _ _ _ => false
  | .four _ _ _ _ => false

/-- The head of the output queue, `dflt` when it is `[]` (R34). -/
def OutQueue.headD (q : OutQueue) (dflt : Byte) : Byte :=
  match q with
  | .empty => dflt
  | .one a => a
  | .two a _ => a
  | .three a _ _ => a
  | .four a _ _ _ => a

/-- The tail of the output queue (R172). -/
def OutQueue.tail : OutQueue → OutQueue
  | .empty => .empty
  | .one _ => .empty
  | .two _ b => .one b
  | .three _ b c => .two b c
  | .four _ b c d => .three b c d

/-- `olen`, the number of bytes in the output queue (R26). -/
def OutQueue.length : OutQueue → Nat
  | .empty => 0
  | .one _ => 1
  | .two _ _ => 2
  | .three _ _ _ => 3
  | .four _ _ _ _ => 4

end Sys2Proof.Machine
end

