-- ==== Sys2Proof/Machine/Flags.lean ====
section
/-! DEFINITION. The derived signals and the status words (R33 to R38, R203): pure functions of the state. Reading one
is not a step and changes nothing (R203). -/

namespace Sys2Proof.Machine

/-- `in_ready` (R33). -/
def State.inReady (s : State) : Bool := s.st.active && s.obuf.isEmpty && s.repCnt == 0#16

/-- `out_valid` (R34). -/
def State.outValid (s : State) : Bool := !s.obuf.isEmpty || s.repCnt != 0#16

/-- `out_data` (R34); meaningful only when `out_valid = 1`. -/
def State.outData (s : State) : Byte := s.obuf.headD s.repVal

/-- `busy` (R35). -/
def State.busy (s : State) : Bool := s.st.active || s.outValid

/-- `done` (R36). -/
def State.done (s : State) : Bool := s.st == .done && !s.outValid

/-- `error` (R37). -/
def State.error (s : State) : Bool := s.st == .error

/-- `STATUS` (R38): the fields from bit 15 down. -/
def State.status (s : State) : StatusWord :=
  0#3 ++ BitVec.ofBool s.inReady ++ BitVec.ofBool s.outValid ++ s.errInfo ++ s.errCode.code ++ BitVec.ofBool s.error
    ++ BitVec.ofBool s.done ++ BitVec.ofBool s.busy ++ s.mode.bit ++ s.st.code

/-- The word IN_COUNT (R38, R203). -/
def State.inCountWord (s : State) : Counter := s.inCount

/-- The word OUT_COUNT (R38, R203). -/
def State.outCountWord (s : State) : Counter := s.outCount

end Sys2Proof.Machine
end

