-- ==== Sys2Proof/Machine/Ops.lean ====
section
/-! DEFINITION. The named operations on the state, from which every step is built. Each writes what its name says and
keeps every other field (R10: a register that a rule does not write keeps its value). A rule's right-hand sides are
read from the state before the step (R10, parallel assignment). -/

namespace Sys2Proof.Machine

/-- The outcome type of this machine. -/
abbrev Result := Host.Outcome State Fault Refusal

/-- Go on from a next state; a fault or a refusal stays. -/
def andThen (r : Result) (k : State → Result) : Result :=
  match r with
  | .next s => k s
  | .fault f => .fault f
  | .refused f => .refused f

/-- `Accept(tok)` (R10, R51): the head token leaves the source. It is not compared with `tok`: where the head is another
token, or the source is empty, that it is dropped, or nothing is, is a DESIGN CHOICE (log 17). -/
def State.accept (s : State) : State := { s with source := s.source.tail }

/-- `Accept(Byte(b))`, as `State.accept` (log 17), and `in_count <- in_count + 1`, modulo 2^32 (R31, R100, R130). -/
def State.takeByte (s : State) : State := { s with source := s.source.tail, inCount := s.inCount + 1#32 }

/-- `Emit(b)` and `out_count <- out_count + 1`, modulo 2^32 (R10, R32, R52, R172). -/
def State.emit (b : Byte) (s : State) : State := { s with sink := s.sink ++ [b], outCount := s.outCount + 1#32 }

def State.setSt (c : Ctrl) (s : State) : State := { s with st := c }

def State.setMode (m : Mode) (s : State) : State := { s with mode := m }

def State.setRun (v : Byte) (c : Count) (s : State) : State := { s with runVal := v, runCnt := c }

def State.setPend (b : Byte) (s : State) : State := { s with pend := b }

def State.setChi (h : Byte) (s : State) : State := { s with chi := h }

def State.setObuf (q : OutQueue) (s : State) : State := { s with obuf := q }

def State.setRep (v : Byte) (c : Count) (s : State) : State := { s with repVal := v, repCnt := c }

/-- `rep_cnt <- c`; `rep_val` is not changed (R172). -/
def State.setRepCnt (c : Count) (s : State) : State := { s with repCnt := c }

def State.setAgenda (l : List HostMove) (s : State) : State := { s with agenda := l }

def State.setSource (l : List TokenWord) (s : State) : State := { s with source := l }

/-- TAKING THE EXCEPTION: `raise TruncatedStream(i)` (R231). It writes `st`, `err_code` and `err_info` and nothing else.
There is no saved context, no vector and no return (R234); the ways out are Start and Reset (R235), which clear the
error by `State.clearJob`. -/
def State.raiseTruncated (i : BitVec 1) (s : State) : State :=
  { s with st := .error, errCode := .truncated, errInfo := i }

/-- Every job register to 0 or `[]`, as Reset and Start both write it (R200, R201). The streams are not registers: a
consumed token is not returned and an emitted byte stays emitted (R52, R200). -/
def State.clearJob (s : State) : State :=
  { s with
    runVal := 0x00#8, runCnt := 0x0000#16, pend := 0x00#8, chi := 0x00#8, obuf := .empty, repVal := 0x00#8,
    repCnt := 0x0000#16, errCode := .none, errInfo := 0#1, inCount := 0#32, outCount := 0#32 }

/-- `obuf <- frame(v, c)` inside a step that goes on with `k`; a frame of count 0 is refused (R170, I10). -/
def withFrame (v : Byte) (c : Count) (k : OutQueue → State) : Result :=
  match frame v c with
  | none => .refused .frameOfZero
  | some q => .next (k q)

end Sys2Proof.Machine
end

