-- ==== Sys2Proof/Machine/Control.lean ====
section
/-! DEFINITION. The control operations (43_control.md). -/

namespace Sys2Proof.Machine

/-- `Reset` (R200): every register at its reset value (R39); the streams and the slots to come stay as they are. -/
def resetCore (s : State) : State := (s.clearJob.setMode .enc).setSt .idle

/-- The control state in which a job of a mode begins (R201). -/
def startState : Mode → Ctrl
  | .enc => .eEmpty
  | .dec => .dEmpty

/-- What an accepted `Start(m)` writes (R201). -/
def startJob (m : Mode) (s : State) : State := (s.clearJob.setMode m).setSt (startState m)

/-- `Start(m)` (R201, R202): ignored while busy. -/
def start (m : Mode) (s : State) : State := if s.busy then s else startJob m s

/-- RESET (R200): in every state; the ignored bits 2:1 are not read (R71). -/
def execReset (_x : BitVec 2) (s : State) : Result := .next (resetCore s)

/-- START_ENC (R201, R202). -/
def execStartEnc (s : State) : Result := .next (start .enc s)

/-- START_DEC (R201, R202). -/
def execStartDec (s : State) : Result := .next (start .dec s)

/-- NOP (R71): no step. -/
def execNop (_x : BitVec 1) (s : State) : Result := .next s

end Sys2Proof.Machine
end

