-- ==== Sys2Proof/Machine/DecoderRules.lean ====
section
/-! DEFINITION. The decoder parser (41_decoder.md): one definition per rule R131 to R139, and the dispatch of R130. -/

namespace Sys2Proof.Machine

/-- R131: take the first byte of a unit into the lookahead. -/
def decRefill (b : Byte) (s : State) : State := (s.takeByte.setPend b).setSt .dHave1

/-- R132: the pending byte was a literal; `b` starts the next unit. -/
def decLiteral (b : Byte) (s : State) : State := (s.takeByte.setRep s.pend 1#16).setPend b

/-- R133: the doubled marker of a long-form unit. -/
def decMarker (s : State) : State := s.takeByte.setSt .dCntHi

/-- R134: the count high byte. -/
def decCountHi (h : Byte) (s : State) : State := (s.takeByte.setChi h).setSt .dCntLo

/-- R135: the count low byte; the unit's bytes enter the output stage. -/
def decCountLo (l : Byte) (s : State) : State := (s.takeByte.setRep s.pend (countOf s.chi l)).setSt .dEmpty

/-- R136: the stream ends at a unit boundary. -/
def decFinish (s : State) : State := s.accept.setSt .done

/-- R137: flush the pending byte. -/
def decFlush (s : State) : State := (s.accept.setRep s.pend 1#16).setSt .done

/-- R138: the stream ends right after the marker. -/
def decTruncated0 (s : State) : State := s.accept.raiseTruncated 0#1

/-- R139: the stream ends after the count high byte. -/
def decTruncated1 (s : State) : State := s.accept.raiseTruncated 1#1

/-- An accepted token in DEC mode: the table of R130. A control state of the encoder has no row (R40 item 1; log 5). -/
def decAccept (t : Token) (s : State) : Result :=
  match t, s.st with
  | .byte b, .dEmpty => .next (decRefill b s)
  | .byte b, .dHave1 => if b = s.pend then .next (decMarker s) else .next (decLiteral b s)
  | .byte h, .dCntHi => .next (decCountHi h s)
  | .byte l, .dCntLo => .next (decCountLo l s)
  | .eos, .dEmpty => .next (decFinish s)
  | .eos, .dHave1 => .next (decFlush s)
  | .eos, .dCntHi => .next (decTruncated0 s)
  | .eos, .dCntLo => .next (decTruncated1 s)
  | _, _ => .fault .modeStateMismatch

end Sys2Proof.Machine
end

