-- ==== Sys2Proof/Machine/EncoderRules.lean ====
section
/-! DEFINITION. The encoder state machine (40_encoder.md): one definition per rule R101 to R106, and the dispatch of
R100. -/

namespace Sys2Proof.Machine

/-- R101: open the first run. -/
def encOpenRun (b : Byte) (s : State) : State := (s.takeByte.setRun b 1#16).setSt .eRun

/-- R102: extend the run. -/
def encExtend (s : State) : State := s.takeByte.setRun s.runVal (s.runCnt + 1#16)

/-- R103: emit a full chunk and start the next chunk of the same run (SPLIT). -/
def encSplit (s : State) : Result :=
  withFrame s.runVal Config.maxCount fun q => (s.takeByte.setObuf q).setRun s.runVal 1#16

/-- R104: emit the completed run and open a new one. -/
def encNewRun (b : Byte) (s : State) : Result :=
  withFrame s.runVal s.runCnt fun q => (s.takeByte.setObuf q).setRun b 1#16

/-- R105: the empty stream. -/
def encFinishEmpty (s : State) : State := s.accept.setSt .done

/-- R106: emit the last run and finish. -/
def encFinishRun (s : State) : Result :=
  withFrame s.runVal s.runCnt fun q => (s.accept.setObuf q).setSt .done

/-- An accepted token in ENC mode: the table of R100. A control state of the decoder has no row (R40 item 1; log 5). -/
def encAccept (t : Token) (s : State) : Result :=
  match t, s.st with
  | .byte b, .eEmpty => .next (encOpenRun b s)
  | .byte b, .eRun =>
    if b = s.runVal then (if s.runCnt < Config.maxCount then .next (encExtend s) else encSplit s)
    else encNewRun b s
  | .eos, .eEmpty => .next (encFinishEmpty s)
  | .eos, .eRun => encFinishRun s
  | _, _ => .fault .modeStateMismatch

end Sys2Proof.Machine
end

