-- ==== Sys2Proof/Machine/OutputStage.lean ====
section
/-! DEFINITION. The output stage of the framer (42_rle_framer.md R171 to R173): the OUT step and draining. -/

namespace Sys2Proof.Machine

/-- The effect of an `Out` step (R172): the head of `obuf`, or a copy of `rep_val`. -/
def outStep (s : State) : State :=
  if s.obuf.isEmpty then (s.emit s.repVal).setRepCnt (s.repCnt - 1#16)
  else (s.emit (s.obuf.headD s.repVal)).setObuf s.obuf.tail

/-- The number of `Out` steps until `out_valid = 0` (R171, R264). -/
def State.pendingOut (s : State) : Nat := s.obuf.length + s.repCnt.toNat

/-- `n` `Out` steps. -/
def drainN : Nat → State → State
  | 0, s => s
  | n + 1, s => drainN n (outStep s)

/-- DRAIN (R82): `Out` steps while `out_valid = 1`. -/
def State.drain (s : State) : State := drainN s.pendingOut s

/-- OUT (R172): enabled when `out_valid = 1`; otherwise there is no step (OS-4; log 2). -/
def execOut (s : State) : Result := if s.outValid then .next (outStep s) else .next s

end Sys2Proof.Machine
end

