-- ==== Sys2Proof/Machine/InputPort.lean ====
section
/-! DEFINITION. The input port: the step `In(tok)` (R8), dispatched by `mode` (R21, R100, R130), and the feeding of
several tokens. -/

namespace Sys2Proof.Machine

/-- The source offers `t`. With `in_ready = 0` there is no step and the token stays with the source (R33, R204).
That `t` is the source's head is not checked: a step offers no other (R51); elsewhere it is a DESIGN CHOICE (log 17). -/
def offer (t : Token) (s : State) : Result :=
  if s.inReady then
    match s.mode with
    | .enc => encAccept t s
    | .dec => decAccept t s
  else .next s

/-- FEED with DRAIN (R82): each token in turn, offered once the sink has taken what is pending. When no job is
accepting tokens any more, the tokens left stay with the source (R204). The tokens are the list's, whatever the source
holds (log 17). -/
def feed : List Token → State → Result
  | [], s => .next s
  | t :: ts, s => if s.st.active then andThen (offer t s.drain) (feed ts) else .next s

end Sys2Proof.Machine
end

