-- ==== Sys2Proof/Machine/Decoder.lean ====
section
/-! DEFINITION. The meanings of the DEC token rows of the opcode table. Each row says its constraint (the state in which
its rule applies) and, under it, its rule. The word of a row is one token word for all rows of its kind; where the row's
constraint does not hold, the core does with that word what it does with any: it holds it off when `in_ready = 0`
(R204), and else dispatches it by mode and control state (R100, R130; log 3). A row's constraint and the dispatch are
written apart; that they agree is a statement. -/

namespace Sys2Proof.Machine

/-- DEC_BYTE (R130): a byte token in DEC mode, dispatched by R131 to R135. -/
def execDecByte (b : Byte) (s : State) : Result :=
  if s.inReady = true ∧ s.mode = .dec then decAccept (.byte b) s else offer (.byte b) s

/-- DEC_BYTE.D_EMPTY (R131). -/
def execDecByteDEmpty (b : Byte) (s : State) : Result :=
  if s.inReady = true ∧ s.mode = .dec ∧ s.st = .dEmpty then .next (decRefill b s)
  else offer (.byte b) s

/-- DEC_BYTE.LITERAL (R132). -/
def execDecByteLiteral (b : Byte) (s : State) : Result :=
  if s.inReady = true ∧ s.mode = .dec ∧ s.st = .dHave1 ∧ b ≠ s.pend then .next (decLiteral b s)
  else offer (.byte b) s

/-- DEC_BYTE.MARKER (R133). -/
def execDecByteMarker (b : Byte) (s : State) : Result :=
  if s.inReady = true ∧ s.mode = .dec ∧ s.st = .dHave1 ∧ b = s.pend then .next (decMarker s)
  else offer (.byte b) s

/-- DEC_BYTE.CNTHI (R134). -/
def execDecByteCntHi (b : Byte) (s : State) : Result :=
  if s.inReady = true ∧ s.mode = .dec ∧ s.st = .dCntHi then .next (decCountHi b s)
  else offer (.byte b) s

/-- DEC_BYTE.CNTLO (R135). -/
def execDecByteCntLo (b : Byte) (s : State) : Result :=
  if s.inReady = true ∧ s.mode = .dec ∧ s.st = .dCntLo then .next (decCountLo b s)
  else offer (.byte b) s

/-- DEC_END (R130): an `End` token in DEC mode, dispatched by R136 to R139; the data bits are ignored (R70). -/
def execDecEnd (_d : Byte) (s : State) : Result :=
  if s.inReady = true ∧ s.mode = .dec then decAccept .eos s else offer .eos s

/-- DEC_END.D_EMPTY (R136). -/
def execDecEndDEmpty (_d : Byte) (s : State) : Result :=
  if s.inReady = true ∧ s.mode = .dec ∧ s.st = .dEmpty then .next (decFinish s)
  else offer .eos s

/-- DEC_END.D_HAVE1 (R137). -/
def execDecEndDHave1 (_d : Byte) (s : State) : Result :=
  if s.inReady = true ∧ s.mode = .dec ∧ s.st = .dHave1 then .next (decFlush s)
  else offer .eos s

/-- DEC_END.D_CNTHI (R138): takes TruncatedStream with `err_info = 0`. -/
def execDecEndDCntHi (_d : Byte) (s : State) : Result :=
  if s.inReady = true ∧ s.mode = .dec ∧ s.st = .dCntHi then .next (decTruncated0 s)
  else offer .eos s

/-- DEC_END.D_CNTLO (R139): takes TruncatedStream with `err_info = 1`. -/
def execDecEndDCntLo (_d : Byte) (s : State) : Result :=
  if s.inReady = true ∧ s.mode = .dec ∧ s.st = .dCntLo then .next (decTruncated1 s)
  else offer .eos s

end Sys2Proof.Machine
end

