-- ==== Sys2Proof/Machine/Encoder.lean ====
section
/-! DEFINITION. The meanings of the ENC token rows of the opcode table. Each row says its constraint (the state in which
its rule applies) and, under it, its rule. The word of a row is one token word for all rows of its kind; where the row's
constraint does not hold, the core does with that word what it does with any: it holds it off when `in_ready = 0`
(R204), and else dispatches it by mode and control state (R100, R130; log 3). A row's constraint and the dispatch are
written apart; that they agree is a statement. -/

namespace Sys2Proof.Machine

/-- ENC_BYTE (R100): a byte token in ENC mode, dispatched by R101 to R104. -/
def execEncByte (b : Byte) (s : State) : Result :=
  if s.inReady = true ∧ s.mode = .enc then encAccept (.byte b) s else offer (.byte b) s

/-- ENC_BYTE.E_EMPTY (R101). -/
def execEncByteEEmpty (b : Byte) (s : State) : Result :=
  if s.inReady = true ∧ s.mode = .enc ∧ s.st = .eEmpty then .next (encOpenRun b s)
  else offer (.byte b) s

/-- ENC_BYTE.EXTEND (R102). -/
def execEncByteExtend (b : Byte) (s : State) : Result :=
  if s.inReady = true ∧ s.mode = .enc ∧ s.st = .eRun ∧ b = s.runVal ∧ s.runCnt < Config.maxCount then .next (encExtend s)
  else offer (.byte b) s

/-- ENC_BYTE.SPLIT (R103). -/
def execEncByteSplit (b : Byte) (s : State) : Result :=
  if s.inReady = true ∧ s.mode = .enc ∧ s.st = .eRun ∧ b = s.runVal ∧ s.runCnt = Config.maxCount then encSplit s
  else offer (.byte b) s

/-- ENC_BYTE.NEWRUN (R104). -/
def execEncByteNewRun (b : Byte) (s : State) : Result :=
  if s.inReady = true ∧ s.mode = .enc ∧ s.st = .eRun ∧ b ≠ s.runVal then encNewRun b s
  else offer (.byte b) s

/-- ENC_END (R100): an `End` token in ENC mode, dispatched by R105 and R106; the data bits are ignored (R70). -/
def execEncEnd (_d : Byte) (s : State) : Result :=
  if s.inReady = true ∧ s.mode = .enc then encAccept .eos s else offer .eos s

/-- ENC_END.E_EMPTY (R105). -/
def execEncEndEEmpty (_d : Byte) (s : State) : Result :=
  if s.inReady = true ∧ s.mode = .enc ∧ s.st = .eEmpty then .next (encFinishEmpty s)
  else offer .eos s

/-- ENC_END.E_RUN (R106). -/
def execEncEndERun (_d : Byte) (s : State) : Result :=
  if s.inReady = true ∧ s.mode = .enc ∧ s.st = .eRun then encFinishRun s
  else offer .eos s

end Sys2Proof.Machine
end

