-- ==== Sys2Proof/Machine/WireUnits.lean ====
section
/-! DEFINITION. The wire units as instructions (R73, R74, R77, R83; log 4): the source offers the unit's tokens in
stream order. At a unit boundary of a decode job the steps are those of R131 to R139, and since R131, R133 and R134 put
nothing into the output stage, no OUT step can stand between the bytes of one unit. -/

namespace Sys2Proof.Machine

/-- LIT (R73): the byte `V`. -/
def execLit (v : Byte) (s : State) : Result := feed (unitTokens (.lit v)) s

/-- LONG (R74): `V V C_hi C_lo`. -/
def execLong (v v2 h l : Byte) (s : State) : Result := feed (unitTokens (.long v v2 h l)) s

/-- TRUNC0 (R77): `V V`, then `End`. -/
def execTrunc0 (v v2 : Byte) (s : State) : Result := feed (unitTokens (.trunc0 v v2)) s

/-- TRUNC1 (R77): `V V C_hi`, then `End`. -/
def execTrunc1 (v v2 h : Byte) (s : State) : Result := feed (unitTokens (.trunc1 v v2 h)) s

end Sys2Proof.Machine
end

