-- ==== Sys2Proof/Machine/Dispatch.lean ====
section
/-! DEFINITION. The dispatch: one arm per constructor of `Instr`, one direct call of its meaning. -/

namespace Sys2Proof.Machine

def exec (i : Instr) (s : State) : Host.Outcome State Fault Refusal :=
  match i with
  | .reset x => Sys2Proof.Machine.execReset x s
  | .startEnc => Sys2Proof.Machine.execStartEnc s
  | .startDec => Sys2Proof.Machine.execStartDec s
  | .nop x => Sys2Proof.Machine.execNop x s
  | .encByte b => Sys2Proof.Machine.execEncByte b s
  | .encByteEEmpty b => Sys2Proof.Machine.execEncByteEEmpty b s
  | .encByteExtend b => Sys2Proof.Machine.execEncByteExtend b s
  | .encByteSplit b => Sys2Proof.Machine.execEncByteSplit b s
  | .encByteNewRun b => Sys2Proof.Machine.execEncByteNewRun b s
  | .encEnd d => Sys2Proof.Machine.execEncEnd d s
  | .encEndEEmpty d => Sys2Proof.Machine.execEncEndEEmpty d s
  | .encEndERun d => Sys2Proof.Machine.execEncEndERun d s
  | .decByte b => Sys2Proof.Machine.execDecByte b s
  | .decByteDEmpty b => Sys2Proof.Machine.execDecByteDEmpty b s
  | .decByteLiteral b => Sys2Proof.Machine.execDecByteLiteral b s
  | .decByteMarker b => Sys2Proof.Machine.execDecByteMarker b s
  | .decByteCntHi b => Sys2Proof.Machine.execDecByteCntHi b s
  | .decByteCntLo b => Sys2Proof.Machine.execDecByteCntLo b s
  | .decEnd d => Sys2Proof.Machine.execDecEnd d s
  | .decEndDEmpty d => Sys2Proof.Machine.execDecEndDEmpty d s
  | .decEndDHave1 d => Sys2Proof.Machine.execDecEndDHave1 d s
  | .decEndDCntHi d => Sys2Proof.Machine.execDecEndDCntHi d s
  | .decEndDCntLo d => Sys2Proof.Machine.execDecEndDCntLo d s
  | .out => Sys2Proof.Machine.execOut s
  | .lit v => Sys2Proof.Machine.execLit v s
  | .long v v2 h l => Sys2Proof.Machine.execLong v v2 h l s
  | .trunc0 v v2 => Sys2Proof.Machine.execTrunc0 v v2 s
  | .trunc1 v v2 h => Sys2Proof.Machine.execTrunc1 v v2 h s

end Sys2Proof.Machine
end

