-- ==== Sys2Proof/Machine/Fetch.lean ====
section
/-! DEFINITION. Fetching: which instruction the next slot presents to the core, and the placing of a port word where the
next step fetches it. The core has no program counter (R41): what it runs is what its ports are given. -/

namespace Sys2Proof.Machine

/-- The token row of the source's head token; `none` when the source has nothing to offer. -/
def fetchToken (s : State) : Option Instr :=
  match s.source with
  | [] => none
  | w :: _ => some (decodeTok s.mode w)

/-- The one event of a cycle in which a control word, an offer and a take may stand together (R236, R237): Reset wins over
everything; an effective Start excludes In and Out, which need `busy = 1`; at most one of In and Out is enabled; else the
control word has no effect (NOP, or Start while busy). -/
def arbitrate (w : ControlWord) (offered take : Bool) (s : State) : Option Instr :=
  if w.getLsbD 0 then some (decodeCtl w)
  else if w.getLsbD 1 && !s.busy then some (decodeCtl w)
  else if offered && s.inReady then fetchToken s
  else if take && s.outValid then some .out
  else some (decodeCtl w)

/-- The instruction of a slot; `none` when the source has no token, or no whole wire unit, to offer. -/
def fetch (m : HostMove) (s : State) : Option Instr :=
  match m with
  | .ctl w => some (decodeCtl w)
  | .tok => fetchToken s
  | .out => some .out
  | .unit =>
    match decodeUnit s.source with
    | .ok (i, _) => some i
    | .error _ => none
  | .together w offered take => arbitrate w offered take s

/-- A port word placed so that the next step runs it (log 10). A token runs only when the core accepts tokens, and a wire
unit only at a unit boundary of a decode job: where that is not so, the job is begun as START begins it (R201). -/
def State.place (p : PortWord) (s : State) : State :=
  match p with
  | .ctl w => s.setAgenda (.ctl w :: s.agenda)
  | .tok w =>
    let t := if s.inReady && s.mode == .enc then s else startJob .enc s
    (t.setSource (w :: t.source)).setAgenda (.tok :: t.agenda)
  | .take => s.setAgenda (.out :: s.agenda)
  | .wire ws =>
    let t := if s.inReady && s.mode == .dec && s.st == .dEmpty then s else startJob .dec s
    (t.setSource (ws ++ t.source)).setAgenda (.unit :: t.agenda)

end Sys2Proof.Machine
end

