-- ==== Sys2Proof/Machine/Step.lean ====
section
/-! DEFINITION. One step: the next slot's instruction is fetched and run. -/

namespace Sys2Proof.Machine

/-- One step. With no slot to come nobody acts and the state is kept (R242); a slot that presents nothing passes with
nothing changed (log 2). Each step uses up one slot. -/
def step (s : State) : Host.Outcome State Fault Refusal :=
  match s.agenda with
  | [] => .next s
  | m :: rest =>
    match fetch m (s.setAgenda rest) with
    | none => .next (s.setAgenda rest)
    | some i => exec i (s.setAgenda rest)

def State.withFetchWord (s : State) (nbits w : Nat) : State := s.place (tablePortWord nbits w)

end Sys2Proof.Machine
end

