-- ==== Sys2Proof/Machine/ClosedForms.lean ====
section
/-! DEFINITION. The closed forms of 42_rle_framer.md (R174 to R178): what whole streams mean, written apart from the
step rules, which no definition here calls. `frame` alone is shared (R170). -/

namespace Sys2Proof.Machine

/-- `runs(S)`: the maximal runs of a byte list, as value and length (R174). -/
def runs : List Byte → List (Byte × Nat)
  | [] => []
  | b :: bs =>
    match runs bs with
    | [] => [(b, 1)]
    | (v, n) :: more => if v = b then (v, n + 1) :: more else (b, 1) :: (v, n) :: more

/-- `chunks(v, n)`, whose lengths do not depend on `v`: `floor((n-1)/65535)` chunks of 65535 and a last chunk (R175).
R175 defines it for `n ≥ 1`; that `chunks 0 = [0]` is a DESIGN CHOICE, which `compress` never reaches (log 16). -/
def chunks (n : Nat) : List Nat :=
  List.replicate ((n - 1) / 65535) 65535 ++ [n - 65535 * ((n - 1) / 65535)]

/-- `frame(v, c)` as a byte list (R170). R170 defines it for `1 ≤ c ≤ 65535`; outside, `[]` for `c = 0` (where the step
rules refuse, log 6) and `c` modulo 65536 above are a DESIGN CHOICE, which `compress` never reaches (log 16). -/
def frameList (v : Byte) (c : Nat) : List Byte :=
  match frame v (BitVec.ofNat 16 c) with
  | none => []
  | some q => q.toList

/-- `RUN v, n`: the frames of the chunks of one run (R176), for `n ≥ 1` (R81; log 16 for `n = 0`). -/
def runUnits (v : Byte) (n : Nat) : List Byte := (chunks n).flatMap (frameList v)

/-- `compress(S)` (R177). -/
def compress (bs : List Byte) : List Byte := (runs bs).flatMap fun r => runUnits r.1 r.2

/-- A complete wire unit (R73, R74). -/
inductive WireUnit where
  | lit (v : Byte)
  | long (v : Byte) (c : Count)
deriving DecidableEq, Repr

/-- What a unit stands for: `exp(LIT V) = [V]`, `exp(LONG V, C) = V×C` (R178). -/
def WireUnit.expand : WireUnit → List Byte
  | .lit v => [v]
  | .long v c => List.replicate c.toNat v

/-- The complete units of a byte list, and the number of count bytes seen in a truncated last unit (R75, R77, R178). -/
def parseUnits : List Byte → List WireUnit × Option (BitVec 1)
  | [] => ([], none)
  | [v] => ([.lit v], none)
  | v :: v2 :: rest =>
    if v2 = v then
      match rest with
      | [] => ([], some 0#1)
      | [_] => ([], some 1#1)
      | h :: l :: more => (.long v (countOf h l) :: (parseUnits more).1, (parseUnits more).2)
    else (.lit v :: (parseUnits (v2 :: rest)).1, (parseUnits (v2 :: rest)).2)

/-- The bytes a decode job emits: the expansions of the complete units (R178). -/
def decompress (ws : List Byte) : List Byte := (parseUnits ws).1.flatMap WireUnit.expand

/-- How a decode job ends: `none` in DONE, else in ERROR with the number of count bytes seen (R77, R178). -/
def truncation (ws : List Byte) : Option (BitVec 1) := (parseUnits ws).2

end Sys2Proof.Machine
end

