-- ==== Sys2Proof/Safety.lean ====
section
/-! DEFINITION. What counts as a legal state and as a whole job, in the terms the statements use. -/

namespace Sys2Proof.Machine

/-- The control states of the encoder (R20, R40 item 1). -/
def Ctrl.encoding : Ctrl → Bool
  | .eEmpty => true
  | .eRun => true
  | .idle => false
  | .dEmpty => false
  | .dHave1 => false
  | .dCntHi => false
  | .dCntLo => false
  | .done => false
  | .error => false

/-- The control states that only a decode job reaches (R20, R40 item 1). -/
def Ctrl.decoding : Ctrl → Bool
  | .dEmpty => true
  | .dHave1 => true
  | .dCntHi => true
  | .dCntLo => true
  | .error => true
  | .idle => false
  | .eEmpty => false
  | .eRun => false
  | .done => false

/-- R40, items 1 to 6: the invariants of every state reachable from Reset. (The length of `obuf` in item 3 is the type's,
item 7 follows from R33 and R34, item 8 is about steps.) -/
structure State.Legal (s : State) : Prop where
  /-- item 1, first half -/
  encMode : s.st.encoding = true → s.mode = .enc
  /-- item 1, second half -/
  decMode : s.st.decoding = true → s.mode = .dec
  /-- item 2 -/
  runOpen : s.st = .eRun → s.runCnt ≠ 0#16
  /-- item 3, `obuf` -/
  obufEnc : s.obuf.isEmpty = false → s.mode = .enc
  /-- item 3, `rep_cnt`; with the line before, item 4 -/
  repDec : s.repCnt ≠ 0#16 → s.mode = .dec
  /-- item 5 -/
  quiet : s.st = .idle ∨ s.st = .error → s.outValid = false
  /-- item 6 -/
  errIff : s.errCode ≠ .none ↔ s.st = .error

/-- The control word of a Start in a mode (R71). -/
def startInstr : Mode → Instr
  | .enc => .startEnc
  | .dec => .startDec

/-- A whole job (R12, R261): Start, the bytes, `End`, every output byte drained. The tokens are those of `bs`, whatever
`s.source` holds: for a source that does not begin with them it is a DESIGN CHOICE (log 17). -/
def job (m : Mode) (bs : List Byte) (s : State) : Result :=
  andThen (exec (startInstr m) s) fun s1 =>
    andThen (feed (bs.map .byte ++ [.eos]) s1) fun s2 => .next s2.drain

/-- What the job under way comes to when the source offers all it holds and the sink takes all it is offered; the slots
to come left out. -/
def finish (s : State) : Result :=
  andThen (feed (s.source.map tokenOf) (s.setAgenda [])) fun t => .next t.drain

end Sys2Proof.Machine
end

