-- ==== Sys2Proof/Certificates/Slice0/Obligations.lean ====
section
/-! DEFINITION. The statements for the provers. Each docstring names the rule it formalises, or the model's own choice it
rests on. The result statements write the whole next state, so each is also the frame of its instruction: a register that
is not named in the update is unchanged. In them what happens to `source` is R51's Accept where the tokens run are the
source's first, as they are in every step; elsewhere it is the model's choice (log 17), and no rule is cited for it. -/

open Sys2Proof Sys2Proof.Machine

/-! ### Encodings -/

/-- Words written out from R70, R71 and R74: what they decode to. -/
def Obligations.WordsDecodeAsTheSpecWritesThem : Prop :=
  decodeCtl 0b001#3 = .reset 0b00#2 ∧ decodeCtl 0b111#3 = .reset 0b11#2 ∧ decodeCtl 0b010#3 = .startEnc ∧
  decodeCtl 0b110#3 = .startDec ∧ decodeCtl 0b000#3 = .nop 0#1 ∧ decodeCtl 0b100#3 = .nop 1#1 ∧
  decodeTok .enc 0x041#9 = .encByte 0x41#8 ∧ decodeTok .enc 0x100#9 = .encEnd 0x00#8 ∧
  decodeTok .dec 0x0FF#9 = .decByte 0xFF#8 ∧ decodeTok .dec 0x1A5#9 = .decEnd 0xA5#8 ∧
  decodeUnit [0x005#9, 0x100#9] = .ok (.lit 0x05#8, [0x100#9]) ∧
  decodeUnit [0x041#9, 0x041#9, 0x001#9, 0x02C#9, 0x100#9] = .ok (.long 0x41#8 0x41#8 0x01#8 0x2C#8, [0x100#9]) ∧
  decodeLongWord 0x4141012C#32 = .ok (.long 0x41#8 0x41#8 0x01#8 0x2C#8) ∧
  decodeUnit [0x041#9, 0x041#9, 0x100#9] = .ok (.trunc0 0x41#8 0x41#8, []) ∧
  decodeUnit [0x041#9, 0x041#9, 0x000#9, 0x100#9] = .ok (.trunc1 0x41#8 0x41#8 0x00#8, [])

/-- R71: the control word's table, on all eight words, the priority of `rst` (bit 0) over `start` (bit 1), that RESET
ignores bits 2:1, and that NOP is no step. -/
def Obligations.ControlWordsFollowTheTable : Prop :=
  (∀ w : ControlWord,
    decodeCtl w =
      if w.getLsbD 0 = true then .reset (w.extractLsb' 1 2)
      else if w = 0b010#3 then .startEnc
      else if w = 0b110#3 then .startDec
      else .nop (w.extractLsb' 2 1)) ∧
  (∀ (x y : BitVec 2) (s : State), exec (.reset x) s = exec (.reset y) s) ∧
  ∀ (x : BitVec 1) (s : State), exec (.nop x) s = .next s

/-- R70: `E` is bit 8 and `D` bits 7:0; `E = 0` is `Byte(D)`, `E = 1` is `End` for every `D`, 0x100 its canonical word;
every word is some token's row, and the core gives the same result for every `D` of an `End` word. -/
def Obligations.TokenWordsFollowTheTable : Prop :=
  (∀ b : Byte, tokenOf (0#1 ++ b) = .byte b ∧ tokenOf (1#1 ++ b) = .eos) ∧
  wordOf .eos = 0x100#9 ∧ (∀ b : Byte, (wordOf (.byte b)).toNat = b.toNat) ∧
  (∀ (m : Mode) (b : Byte), decodeTok m (0#1 ++ b) = (match m with | .enc => .encByte b | .dec => .decByte b) ∧
    decodeTok m (1#1 ++ b) = (match m with | .enc => .encEnd b | .dec => .decEnd b)) ∧
  ∀ (m : Mode) (d d2 : Byte) (s : State), exec (decodeTok m (1#1 ++ d)) s = exec (decodeTok m (1#1 ++ d2)) s

/-- Decoding what the encoder writes gives the instruction back: for every well-formed instruction, every operand and
every token stream after it that R75 allows, with a state-dispatched case read as the port row whose word it shares.
That ignored bits are operands and come back too is the model's choice (log 14). -/
def Obligations.DecodingUndoesEncoding : Prop :=
  ∀ (i : Instr) (m : Mode) (rest : List TokenWord), i.wellFormed = true → (∀ k, i.rowMode = some k → m = k) →
    lookaheadOk i rest = true → decode m (encode i) rest = .ok (i.portRow, rest)

/-- Encoding what the decoder reads gives the word back: every control word, every token word, every wire unit (its
tokens, and the words after it untouched), which is then well formed, and every long-form unit read from a 32-bit word
(R74), which the token stream of the word's four bytes decodes to as well. That the bits an encoding ignores (RESET
2:1, NOP 2, the data bits of `End`) come back too is the model's choice, which keeps them as operands (log 14); the
spec itself writes `End` as 0x100. -/
def Obligations.EncodingUndoesDecoding : Prop :=
  (∀ w : ControlWord, encode (decodeCtl w) = .ctl w) ∧
  (∀ (m : Mode) (w : TokenWord), encode (decodeTok m w) = .tok w) ∧
  (∀ (ws rest : List TokenWord) (i : Instr), decodeUnit ws = .ok (i, rest) →
    i.wellFormed = true ∧ ws.map tokenOf = unitTokens i ++ rest.map tokenOf ∧ rest <:+ ws) ∧
  ∀ (w : LongWord) (i : Instr) (rest : List TokenWord), decodeLongWord w = .ok i →
    i.wellFormed = true ∧ (∃ v v2 h l, i = .long v v2 h l ∧ longWord v v2 h l = w) ∧
    decodeUnit ((longBytes w).map (fun b => wordOf (.byte b)) ++ rest) = .ok (i, rest)

/-- R75: the first two bytes alone decide a unit's length. With byte 1 equal to byte 0 the unit takes four bytes whatever
the count bytes are; else, a different byte or `End`, it takes one; what follows is left for the next unit. -/
def Obligations.FirstTwoBytesDecideTheUnit : Prop :=
  (∀ (v h l : Byte) (rest : List TokenWord),
    decodeUnit (wordOf (.byte v) :: wordOf (.byte v) :: wordOf (.byte h) :: wordOf (.byte l) :: rest) =
      .ok (.long v v h l, rest)) ∧
  ∀ (v : Byte) (w : TokenWord) (rest : List TokenWord), tokenOf w ≠ .byte v →
    decodeUnit (wordOf (.byte v) :: w :: rest) = .ok (.lit v, w :: rest)

/-! ### Reset, Start, NOP -/

/-- R39: the reset value of every register. -/
def Obligations.ResetStateHoldsTheTable : Prop :=
  State.reset.st = .idle ∧ State.reset.st.code = 0#4 ∧ State.reset.mode = .enc ∧ State.reset.mode.bit = 0#1 ∧
  State.reset.runVal = 0x00#8 ∧ State.reset.runCnt = 0x0000#16 ∧ State.reset.pend = 0x00#8 ∧
  State.reset.chi = 0x00#8 ∧ State.reset.obuf.toList = [] ∧ State.reset.repVal = 0x00#8 ∧
  State.reset.repCnt = 0x0000#16 ∧ State.reset.errCode.code = 0#2 ∧ State.reset.errInfo = 0#1 ∧
  State.reset.inCount = 0#32 ∧ State.reset.outCount = 0#32 ∧ State.reset.status = 0x0000#16

/-- R200: RESET in every state writes every register, and STATUS, IN_COUNT and OUT_COUNT become 0; the tokens consumed
are not given back and the bytes emitted stay. -/
def Obligations.ResetWritesEveryRegister : Prop :=
  ∀ (x : BitVec 2) (s : State),
    decodeCtl (x ++ 1#1) = .reset x ∧ ∃ t, exec (.reset x) s = .next t ∧
      t = { State.reset with source := s.source, sink := s.sink, agenda := s.agenda } ∧
      t.status = 0x0000#16 ∧ t.inCountWord = 0#32 ∧ t.outCountWord = 0#32

/-- R201: an accepted START writes every job register and opens the job in its mode, and when START is accepted. R202:
START while `busy = 1` changes nothing. -/
def Obligations.StartOpensAJob : Prop :=
  decodeCtl 0b010#3 = .startEnc ∧ decodeCtl 0b110#3 = .startDec ∧
  (∀ s : State, s.busy = false ↔ (s.st = .idle ∨ s.st = .error ∨ s.st = .done) ∧ s.outValid = false) ∧
  ∀ (s : State),
    (s.busy = true → exec .startEnc s = .next s ∧ exec .startDec s = .next s) ∧ (s.busy = false →
    (∃ t, exec .startEnc s = .next t ∧
      t = { State.reset with
        st := .eEmpty, mode := .enc, source := s.source, sink := s.sink, agenda := s.agenda } ∧
      t.status = 0x1021#16) ∧
    ∃ t, exec .startDec s = .next t ∧
      t = { State.reset with
        st := .dEmpty, mode := .dec, source := s.source, sink := s.sink, agenda := s.agenda } ∧
      t.status = 0x1033#16)

/-! ### The encoder -/

/-- R101, for the rows ENC_BYTE and ENC_BYTE.E_EMPTY. -/
def Obligations.EncByteOpensTheFirstRun : Prop :=
  ∀ (b : Byte) (s : State), s.inReady = true → s.mode = .enc → s.st = .eEmpty →
    decodeTok .enc (0#1 ++ b) = .encByte b ∧ ∃ t, exec (.encByte b) s = .next t ∧
      exec (.encByteEEmpty b) s = .next t ∧
      t = { s with
        source := s.source.tail, runVal := b, runCnt := 1#16, st := .eRun, inCount := s.inCount + 1#32 } ∧
      t.st.code = 2#4 ∧ t.inReady = true ∧ t.outValid = false

/-- R102, for the rows ENC_BYTE and ENC_BYTE.EXTEND: the count goes up by 1 without wrapping, and no status flag
changes. -/
def Obligations.EncByteExtendsTheRun : Prop :=
  ∀ (b : Byte) (s : State), s.inReady = true → s.mode = .enc → s.st = .eRun → b = s.runVal → s.runCnt.toNat < 65535 →
    decodeTok .enc (0#1 ++ b) = .encByte b ∧ ∃ t, exec (.encByte b) s = .next t ∧
      exec (.encByteExtend b) s = .next t ∧
      t = { s with source := s.source.tail, runCnt := s.runCnt + 1#16, inCount := s.inCount + 1#32 } ∧
      t.runCnt.toNat = s.runCnt.toNat + 1 ∧ t.inReady = true ∧ t.status = s.status

/-- R103, for the rows ENC_BYTE and ENC_BYTE.SPLIT. -/
def Obligations.EncByteSplitsAtTheCap : Prop :=
  ∀ (b : Byte) (s : State), s.inReady = true → s.mode = .enc → s.st = .eRun → b = s.runVal → s.runCnt.toNat = 65535 →
    decodeTok .enc (0#1 ++ b) = .encByte b ∧ ∃ t, exec (.encByte b) s = .next t ∧
      exec (.encByteSplit b) s = .next t ∧
      t = { s with
        source := s.source.tail, obuf := .four s.runVal s.runVal 0xFF#8 0xFF#8, runCnt := 1#16,
        inCount := s.inCount + 1#32 } ∧
      t.outValid = true ∧ t.inReady = false ∧ t.pendingOut = 4

/-- R104, for the rows ENC_BYTE and ENC_BYTE.NEWRUN, with `run_cnt` in its range 1..65535. -/
def Obligations.EncByteClosesTheRun : Prop :=
  ∀ (b : Byte) (s : State), s.inReady = true → s.mode = .enc → s.st = .eRun → b ≠ s.runVal → s.runCnt ≠ 0#16 →
    decodeTok .enc (0#1 ++ b) = .encByte b ∧ ∃ t, exec (.encByte b) s = .next t ∧
      exec (.encByteNewRun b) s = .next t ∧
      t = { s with
        source := s.source.tail,
        obuf := if s.runCnt = 1#16 then .one s.runVal
          else .four s.runVal s.runVal (s.runCnt.extractLsb' 8 8) (s.runCnt.extractLsb' 0 8),
        runVal := b, runCnt := 1#16, inCount := s.inCount + 1#32 } ∧
      t.outValid = true ∧ t.inReady = false ∧ t.pendingOut = (if s.runCnt = 1#16 then 1 else 4)

/-- R105, for the rows ENC_END and ENC_END.E_EMPTY: the empty stream. -/
def Obligations.EncEndOfTheEmptyStream : Prop :=
  ∀ (d : Byte) (s : State), s.inReady = true → s.mode = .enc → s.st = .eEmpty →
    decodeTok .enc (1#1 ++ d) = .encEnd d ∧ ∃ t, exec (.encEnd d) s = .next t ∧
      exec (.encEndEEmpty d) s = .next t ∧
      t = { s with source := s.source.tail, st := .done } ∧
      t.st.code = 7#4 ∧ t.done = true ∧ t.busy = false ∧ t.outValid = false

/-- R106, for the rows ENC_END and ENC_END.E_RUN, with `run_cnt` in its range 1..65535. -/
def Obligations.EncEndClosesTheRun : Prop :=
  ∀ (d : Byte) (s : State), s.inReady = true → s.mode = .enc → s.st = .eRun → s.runCnt ≠ 0#16 →
    decodeTok .enc (1#1 ++ d) = .encEnd d ∧ ∃ t, exec (.encEnd d) s = .next t ∧
      exec (.encEndERun d) s = .next t ∧
      t = { s with
        source := s.source.tail,
        obuf := if s.runCnt = 1#16 then .one s.runVal
          else .four s.runVal s.runVal (s.runCnt.extractLsb' 8 8) (s.runCnt.extractLsb' 0 8),
        st := .done } ∧
      t.st.code = 7#4 ∧ t.outValid = true ∧ t.done = false ∧ t.drain.done = true

/-! ### The decoder -/

/-- R131, for the rows DEC_BYTE and DEC_BYTE.D_EMPTY. -/
def Obligations.DecByteRefillsTheLookahead : Prop :=
  ∀ (b : Byte) (s : State), s.inReady = true → s.mode = .dec → s.st = .dEmpty →
    decodeTok .dec (0#1 ++ b) = .decByte b ∧ ∃ t, exec (.decByte b) s = .next t ∧
      exec (.decByteDEmpty b) s = .next t ∧
      t = { s with source := s.source.tail, pend := b, st := .dHave1, inCount := s.inCount + 1#32 } ∧
      t.st.code = 4#4

/-- R132, for the rows DEC_BYTE and DEC_BYTE.LITERAL. -/
def Obligations.DecByteFindsALiteral : Prop :=
  ∀ (b : Byte) (s : State), s.inReady = true → s.mode = .dec → s.st = .dHave1 → b ≠ s.pend →
    decodeTok .dec (0#1 ++ b) = .decByte b ∧ ∃ t, exec (.decByte b) s = .next t ∧
      exec (.decByteLiteral b) s = .next t ∧
      t = { s with
        source := s.source.tail, repVal := s.pend, repCnt := 1#16, pend := b, inCount := s.inCount + 1#32 } ∧
      t.outValid = true ∧ t.inReady = false ∧ t.pendingOut = 1

/-- R133, for the rows DEC_BYTE and DEC_BYTE.MARKER. -/
def Obligations.DecByteFindsTheMarker : Prop :=
  ∀ (b : Byte) (s : State), s.inReady = true → s.mode = .dec → s.st = .dHave1 → b = s.pend →
    decodeTok .dec (0#1 ++ b) = .decByte b ∧ ∃ t, exec (.decByte b) s = .next t ∧
      exec (.decByteMarker b) s = .next t ∧
      t = { s with source := s.source.tail, st := .dCntHi, inCount := s.inCount + 1#32 } ∧ t.st.code = 5#4

/-- R134, for the rows DEC_BYTE and DEC_BYTE.CNTHI. -/
def Obligations.DecByteTakesTheHighCount : Prop :=
  ∀ (h : Byte) (s : State), s.inReady = true → s.mode = .dec → s.st = .dCntHi →
    decodeTok .dec (0#1 ++ h) = .decByte h ∧ ∃ t, exec (.decByte h) s = .next t ∧
      exec (.decByteCntHi h) s = .next t ∧
      t = { s with source := s.source.tail, chi := h, st := .dCntLo, inCount := s.inCount + 1#32 } ∧ t.st.code = 6#4

/-- R135, for the rows DEC_BYTE and DEC_BYTE.CNTLO, count 0 included. -/
def Obligations.DecByteExpandsTheUnit : Prop :=
  ∀ (l : Byte) (s : State), s.inReady = true → s.mode = .dec → s.st = .dCntLo →
    decodeTok .dec (0#1 ++ l) = .decByte l ∧ ∃ t, exec (.decByte l) s = .next t ∧
      exec (.decByteCntLo l) s = .next t ∧
      t = { s with
        source := s.source.tail, repVal := s.pend, repCnt := s.chi ++ l, st := .dEmpty,
        inCount := s.inCount + 1#32 } ∧
      t.st.code = 3#4 ∧ t.pendingOut = s.chi.toNat * 256 + l.toNat ∧
      (s.chi ++ l ≠ 0#16 → t.outValid = true ∧ t.inReady = false) ∧
      (s.chi ++ l = 0#16 → t.outValid = false ∧ t.inReady = true)

/-- R136, for the rows DEC_END and DEC_END.D_EMPTY. -/
def Obligations.DecEndAtAUnitBoundary : Prop :=
  ∀ (d : Byte) (s : State), s.inReady = true → s.mode = .dec → s.st = .dEmpty →
    decodeTok .dec (1#1 ++ d) = .decEnd d ∧ ∃ t, exec (.decEnd d) s = .next t ∧
      exec (.decEndDEmpty d) s = .next t ∧
      t = { s with source := s.source.tail, st := .done } ∧ t.st.code = 7#4 ∧ t.done = true ∧ t.busy = false

/-- R137, for the rows DEC_END and DEC_END.D_HAVE1. -/
def Obligations.DecEndFlushesThePendingByte : Prop :=
  ∀ (d : Byte) (s : State), s.inReady = true → s.mode = .dec → s.st = .dHave1 →
    decodeTok .dec (1#1 ++ d) = .decEnd d ∧ ∃ t, exec (.decEnd d) s = .next t ∧
      exec (.decEndDHave1 d) s = .next t ∧
      t = { s with source := s.source.tail, repVal := s.pend, repCnt := 1#16, st := .done } ∧
      t.st.code = 7#4 ∧ t.outValid = true ∧ t.done = false ∧ (outStep t).done = true ∧
      (outStep t).sink = s.sink ++ [s.pend]

/-- R138, for the rows DEC_END and DEC_END.D_CNTHI: TruncatedStream with no count byte. -/
def Obligations.DecEndAfterTheMarkerRaises : Prop :=
  ∀ (d : Byte) (s : State), s.inReady = true → s.mode = .dec → s.st = .dCntHi →
    decodeTok .dec (1#1 ++ d) = .decEnd d ∧ ∃ t, exec (.decEnd d) s = .next t ∧
      exec (.decEndDCntHi d) s = .next t ∧
      t = { s with source := s.source.tail, st := .error, errCode := .truncated, errInfo := 0#1 } ∧
      t.st.code = 8#4 ∧ t.error = true ∧ t.errCode.code = 1#2 ∧ t.busy = false ∧ t.outValid = false

/-- R139, for the rows DEC_END and DEC_END.D_CNTLO: TruncatedStream with one count byte. -/
def Obligations.DecEndAfterTheHighCountRaises : Prop :=
  ∀ (d : Byte) (s : State), s.inReady = true → s.mode = .dec → s.st = .dCntLo →
    decodeTok .dec (1#1 ++ d) = .decEnd d ∧ ∃ t, exec (.decEnd d) s = .next t ∧
      exec (.decEndDCntLo d) s = .next t ∧
      t = { s with source := s.source.tail, st := .error, errCode := .truncated, errInfo := 1#1 } ∧
      t.st.code = 8#4 ∧ t.error = true ∧ t.errCode.code = 1#2 ∧ t.busy = false ∧ t.outValid = false

/-! ### The framer -/

/-- R170: `frame(v, c)` is defined exactly for `1 ≤ c`, and what it is. -/
def Obligations.FrameBuildsTheUnit : Prop :=
  ∀ v : Byte, frame v 0#16 = none ∧
    ∀ c : Count, c ≠ 0#16 → ∃ q, frame v c = some q ∧
      q.toList = if c = 1#16 then [v] else [v, v, c.extractLsb' 8 8, c.extractLsb' 0 8]

/-- R172: OUT emits one byte, the head of `obuf` or else a copy of `rep_val`, and what follows when it empties the
stage. -/
def Obligations.OutEmitsOneByte : Prop :=
  ∀ (s : State), s.outValid = true →
    ∃ t, exec .out s = .next t ∧
      t = { s with obuf := t.obuf, repCnt := t.repCnt, sink := t.sink, outCount := s.outCount + 1#32 } ∧
      (∀ a more, s.obuf.toList = a :: more → t.sink = s.sink ++ [a] ∧ t.obuf.toList = more ∧ t.repCnt = s.repCnt) ∧
      (s.obuf.toList = [] → t.sink = s.sink ++ [s.repVal] ∧ t.obuf = s.obuf ∧ t.repCnt.toNat + 1 = s.repCnt.toNat) ∧
      (t.outValid = false → t.inReady = t.st.active ∧ (t.st = .done → t.done = true ∧ t.busy = false))

/-! ### Wire units -/

/-- R131 to R135, R138 and R139 on the bytes of one unit at a unit boundary, where the model runs a wire unit as the In
steps of its tokens (log 4): LIT, LONG with every count, TRUNC0 and TRUNC1. What `source`
loses where its first tokens are others is the model's choice (log 17). -/
def Obligations.WireUnitsAtAUnitBoundary : Prop :=
  ∀ (s : State), s.inReady = true → s.mode = .dec → s.st = .dEmpty → ∀ (v h l : Byte),
    exec (.lit v) s = .next { s with
      source := s.source.tail, pend := v, st := .dHave1, inCount := s.inCount + 1#32 } ∧
    exec (.long v v h l) s = .next { s with
      source := s.source.drop 4, pend := v, chi := h, repVal := v, repCnt := h ++ l, st := .dEmpty,
      inCount := s.inCount + 4#32 } ∧
    exec (.trunc0 v v) s = .next { s with
      source := s.source.drop 3, pend := v, st := .error, errCode := .truncated, errInfo := 0#1,
      inCount := s.inCount + 2#32 } ∧
    exec (.trunc1 v v h) s = .next { s with
      source := s.source.drop 4, pend := v, chi := h, st := .error, errCode := .truncated, errInfo := 1#1,
      inCount := s.inCount + 3#32 }

/-- R73: `LIT V` stands for `V×1`: a byte `V` taken at a unit boundary is emitted once, when a different byte or `End`
comes after it. -/
def Obligations.LiteralStandsForItsByte : Prop :=
  ∀ (s : State) (v : Byte), s.inReady = true → s.mode = .dec → s.st = .dEmpty →
    (∀ b : Byte, b ≠ v → ∃ t, andThen (exec (.lit v) s) (exec (.decByte b)) = .next t ∧ t.st = .dHave1 ∧
      t.pend = b ∧ t.drain.sink = s.sink ++ [v]) ∧
    ∀ d : Byte, ∃ t, andThen (exec (.lit v) s) (exec (.decEnd d)) = .next t ∧ t.st = .done ∧
      t.drain.sink = s.sink ++ [v]

/-- R74: `LONG V, C` is the bytes `V`, `V`, `C_hi`, `C_lo` in stream order and stands for `V×C`, every `C` from 0 to
65535. Its 32-bit word has them in bits 31:24, 23:16, 15:8 and 7:0; a word is a long-form unit exactly when bits 23:16
equal bits 31:24; its count is `zext_16(C_hi) << 8 | zext_16(C_lo)`, the word's bits 15:0. -/
def Obligations.LongFormStandsForItsRun : Prop :=
  (∀ v h l : Byte, unitTokens (.long v v h l) = [.byte v, .byte v, .byte h, .byte l] ∧
    (longWord v v h l).extractLsb' 24 8 = v ∧ (longWord v v h l).extractLsb' 16 8 = v ∧
    (longWord v v h l).extractLsb' 8 8 = h ∧ (longWord v v h l).extractLsb' 0 8 = l ∧
    (longWord v v h l).extractLsb' 0 16 = (h.setWidth 16 <<< 8 ||| l.setWidth 16) ∧
    decodeLongWord (longWord v v h l) = .ok (.long v v h l)) ∧
  (∀ w : LongWord, w.extractLsb' 16 8 ≠ w.extractLsb' 24 8 → decodeLongWord w = .error .noMarker) ∧
  (∀ (s : State) (v h l : Byte), s.inReady = true → s.mode = .dec → s.st = .dEmpty →
    ∃ t, exec (.long v v h l) s = .next t ∧ t.drain.st = .dEmpty ∧ t.drain.inReady = true ∧
      t.drain.sink = s.sink ++ List.replicate (h.toNat * 256 + l.toNat) v) ∧
  ∀ (s : State) (w : LongWord), s.inReady = true → s.mode = .dec → s.st = .dEmpty →
    w.extractLsb' 16 8 = w.extractLsb' 24 8 →
    ∃ i t, decodeLongWord w = .ok i ∧ exec i s = .next t ∧ t.drain.inReady = true ∧
      t.drain.sink = s.sink ++ List.replicate (w.extractLsb' 0 16).toNat (w.extractLsb' 24 8)

/-- R55 "A host that moves blocks splits them into single-byte steps, and this cannot change the result": a wire unit, in
any state and mode, does what its tokens do one by one, each after the OUT steps it waits for (log 4). -/
def Obligations.WireUnitIsItsTokensOneByOne : Prop :=
  ∀ (s : State) (v v2 h l : Byte),
    (s.st.active = true → exec (.lit v) s = exec (decodeTok s.mode (wordOf (.byte v))) s.drain) ∧
    (s.st.active = false → exec (.lit v) s = .next s) ∧
    exec (.long v v2 h l) s =
      andThen (exec (.lit v) s) (fun a => andThen (exec (.lit v2) a) fun b => andThen (exec (.lit h) b) (exec (.lit l))) ∧
    exec (.trunc0 v v2) s = andThen (exec (.lit v) s) (fun a => andThen (exec (.lit v2) a) fun b =>
      if b.st.active = true then exec (decodeTok b.mode (wordOf .eos)) b.drain else .next b) ∧
    exec (.trunc1 v v2 h) s =
      andThen (exec (.lit v) s) (fun a => andThen (exec (.lit v2) a) fun b => andThen (exec (.lit h) b) fun c =>
        if c.st.active = true then exec (decodeTok c.mode (wordOf .eos)) c.drain else .next c)

/-! ### Steps that are not enabled, rows against the dispatch, stops -/

/-- R204: a token offered while `in_ready = 0` has no step; it stays with the source: every token row, and a wire unit
when no job accepts tokens. R34: a take is enabled exactly when `out_valid = 1`. That such a slot passes with the state
unchanged is the model's reading (log 2). -/
def Obligations.WhatIsNotEnabledChangesNothing : Prop :=
  ∀ (i : Instr) (s : State),
    (i.token.isSome = true → s.inReady = false → exec i s = .next s) ∧
    ((unitTokens i).isEmpty = false → s.st.active = false → exec i s = .next s) ∧
    (s.outValid = false → exec .out s = .next s)

/-- R100 and R130: a row of the table and the dispatch agree. In every state every token row, whatever its constraint,
does what the input step does with its token (the reading of a row outside its constraint is the model's, log 3). -/
def Obligations.TokenRowsAgreeWithTheDispatch : Prop :=
  ∀ (i : Instr) (t : Token) (s : State), i.token = some t → exec i s = offer t s

/-- The model's two stops, both in states that R40 excludes: a token accepted in a control state of the other mode (item
1) faults (log 5), and a frame of count 0 (item 2), which I10 says to refuse, is refused (log 6). -/
def Obligations.IllegalStatesStopByName : Prop :=
  (∀ (i : Instr) (s : State), i.token.isSome = true → s.inReady = true →
    (s.mode = .enc ∧ s.st.decoding = true ∨ s.mode = .dec ∧ s.st.encoding = true) →
    exec i s = .fault .modeStateMismatch) ∧
  ∀ (s : State) (b d : Byte), s.inReady = true → s.mode = .enc → s.st = .eRun → s.runCnt = 0#16 →
    exec (.encEnd d) s = .refused .frameOfZero ∧ exec (.encEndERun d) s = .refused .frameOfZero ∧
    (b ≠ s.runVal → exec (.encByte b) s = .refused .frameOfZero ∧ exec (.encByteNewRun b) s = .refused .frameOfZero)

/-! ### Frames -/

/-- What no token row writes. In ENC mode (R40 item 8, R107): the decoder's registers and the error, and ERROR is not
entered; `End` writes neither the run nor `in_count`. In DEC mode (R40 item 8): the encoder's registers and `obuf`; a
byte writes no error register, `End` writes none of `pend`, `chi` and `in_count`. In both: the mode, the output count,
the output stream and the slots to come; and the source loses its head or nothing. What `source`
loses where its first tokens are others is the model's choice (log 17). -/
def Obligations.TokensKeepTheRest : Prop :=
  ∀ (i : Instr) (tk : Token) (s t : State), i.token = some tk → exec i s = .next t →
    (t.mode = s.mode ∧ t.outCount = s.outCount ∧ t.sink = s.sink ∧ t.agenda = s.agenda ∧
      t.source = if s.inReady = true then s.source.tail else s.source) ∧
    (s.mode = .enc → t.pend = s.pend ∧ t.chi = s.chi ∧ t.repVal = s.repVal ∧ t.repCnt = s.repCnt ∧
      t.errCode = s.errCode ∧ t.errInfo = s.errInfo ∧ (t.st = .error → s.st = .error) ∧
      (tk = .eos → t.runVal = s.runVal ∧ t.runCnt = s.runCnt ∧ t.inCount = s.inCount)) ∧
    (s.mode = .dec → t.runVal = s.runVal ∧ t.runCnt = s.runCnt ∧ t.obuf = s.obuf ∧
      (∀ b, tk = .byte b → t.errCode = s.errCode ∧ t.errInfo = s.errInfo) ∧
      (tk = .eos → t.pend = s.pend ∧ t.chi = s.chi ∧ t.inCount = s.inCount))

/-- R31 and R32 on one step: `in_count` counts accepted byte tokens and nothing else, `out_count` emitted bytes and
nothing else. -/
def Obligations.CountersCountBytes : Prop :=
  ∀ (i : Instr) (s t : State), exec i s = .next t →
    (∀ b, i.token = some (.byte b) →
      t.inCount = (if s.inReady = true then s.inCount + 1#32 else s.inCount) ∧ t.outCount = s.outCount) ∧
    (i.token = some .eos → t.inCount = s.inCount ∧ t.outCount = s.outCount) ∧
    (i = .out → t.inCount = s.inCount ∧
      t.outCount = s.outCount + BitVec.ofNat 32 (t.sink.length - s.sink.length))

/-! ### The status word -/

/-- R38: the fields of STATUS, bit by bit. -/
def Obligations.StatusWordLayout : Prop :=
  ∀ s : State,
    s.status.extractLsb' 0 4 = s.st.code ∧ s.status.extractLsb' 4 1 = s.mode.bit ∧ s.status.getLsbD 5 = s.busy ∧
    s.status.getLsbD 6 = s.done ∧ s.status.getLsbD 7 = s.error ∧ s.status.extractLsb' 8 2 = s.errCode.code ∧
    s.status.extractLsb' 10 1 = s.errInfo ∧ s.status.getLsbD 11 = s.outValid ∧ s.status.getLsbD 12 = s.inReady ∧
    s.status.extractLsb' 13 3 = 0#3 ∧ State.reset.status = 0x0000#16 ∧
    s.inCountWord = s.inCount ∧ s.outCountWord = s.outCount

/-- R33 to R37, the derived signals; R40 item 7 and R236: in a busy state exactly one of In and Out is enabled, in any
other state neither. -/
def Obligations.OneOfInAndOutIsEnabled : Prop :=
  ∀ s : State,
    (s.inReady = true ↔ s.st.active = true ∧ s.obuf.toList = [] ∧ s.repCnt = 0#16) ∧
    (s.outValid = true ↔ s.obuf.toList ≠ [] ∨ s.repCnt ≠ 0#16) ∧
    s.obuf.toList.headD s.repVal = s.outData ∧
    (s.busy = true ↔ s.st.active = true ∨ s.outValid = true) ∧
    (s.done = true ↔ s.st = .done ∧ s.outValid = false) ∧ (s.error = true ↔ s.st = .error) ∧
    (s.st.active = true ↔ s.st.code.toNat ∈ [1, 2, 3, 4, 5, 6]) ∧
    (s.busy = true → s.inReady = !s.outValid) ∧
    (s.busy = false → s.inReady = false ∧ s.outValid = false)

/-! ### A step -/

/-- A step runs the decoded instruction: what the next slot presents is decoded and run on the state with that slot used
up, and the step adds nothing else. A slot that presents nothing only passes; with no slot left the state is kept. -/
def Obligations.StepRunsTheDecodedInstruction : Prop :=
  ∀ (s : State) (more : List HostMove),
    (∀ w, s.agenda = .ctl w :: more → step s = exec (decodeCtl w) { s with agenda := more }) ∧
    (∀ w ws, s.agenda = .tok :: more → s.source = w :: ws →
      step s = exec (decodeTok s.mode w) { s with agenda := more }) ∧
    (s.agenda = .tok :: more → s.source = [] → step s = .next { s with agenda := more }) ∧
    (s.agenda = .out :: more → step s = exec .out { s with agenda := more }) ∧
    (∀ i rest, s.agenda = .unit :: more → decodeUnit s.source = .ok (i, rest) →
      step s = exec i { s with agenda := more }) ∧
    (∀ r, s.agenda = .unit :: more → decodeUnit s.source = .error r → step s = .next { s with agenda := more }) ∧
    (s.agenda = [] → step s = .next s)

/-- R237: in a cycle with `rst` set, Reset wins, whatever else stands in it: the offered token is not consumed and no
byte is taken. -/
def Obligations.ResetWinsItsCycle : Prop :=
  ∀ (s : State) (more : List HostMove) (w : ControlWord) (offered take : Bool),
    s.agenda = .together w offered take :: more → w.getLsbD 0 = true →
    step s = exec (.reset (w.extractLsb' 1 2)) { s with agenda := more } ∧
    ∃ t, step s = .next t ∧ t.source = s.source ∧ t.sink = s.sink ∧ t.st = .idle

/-- R236: in a cycle without `rst` at most one event takes place: an effective Start, or the In, or the Out that is
enabled, or nothing (the model's slot for a whole cycle is log 11). -/
def Obligations.OneEventInACycle : Prop :=
  ∀ (s : State) (more : List HostMove) (w : ControlWord) (offered take : Bool),
    s.agenda = .together w offered take :: more → w.getLsbD 0 = false →
    (w.getLsbD 1 = true → s.busy = false → step s = exec (decodeCtl w) { s with agenda := more }) ∧
    (s.inReady = true → offered = true → ∀ tw ws, s.source = tw :: ws →
      step s = exec (decodeTok s.mode tw) { s with agenda := more }) ∧
    (s.outValid = true → take = true → step s = exec .out { s with agenda := more }) ∧
    (s.busy = true → (s.inReady = true → offered = false) → (s.outValid = true → take = false) →
      step s = .next { s with agenda := more })

/-- The model's placing of a table word (log 10): a control word is the next step's in every state, a token word in a
ready ENC state, and a long-form unit's 32-bit word, laid out as R74 says, at a unit boundary of a DEC job. -/
def Obligations.PlacedWordRunsNext : Prop :=
  ∀ (s : State),
    (∀ w : ControlWord, step (s.withFetchWord 8 w.toNat) = exec (decodeCtl w) s) ∧
    (s.inReady = true → s.mode = .enc → ∀ w : TokenWord,
      step (s.withFetchWord 16 w.toNat) = exec (decodeTok .enc w) { s with source := w :: s.source }) ∧
    (s.inReady = true → s.mode = .dec → s.st = .dEmpty → ∀ v h l : Byte,
      step (s.withFetchWord 32 (longWord v v h l).toNat) =
        exec (.long v v h l)
          { s with source := [v, v, h, l].map (fun b => wordOf (.byte b)) ++ wordOf .eos :: s.source })

/-! ### Invariants -/

/-- The reset state is legal (R40). -/
def Obligations.ResetIsLegal : Prop := State.reset.Legal

/-- R40, items 1 to 6: every step keeps the invariants, from every state that has them. -/
def Obligations.StepKeepsTheInvariants : Prop :=
  ∀ s t : State, s.Legal → step s = .next t → t.Legal

/-- In a legal state no step stops: no fault and no refusal (R40, R107, R141). -/
def Obligations.LegalStatesNeverStop : Prop :=
  ∀ s : State, s.Legal → (∃ t, step s = .next t) ∧ ∀ i : Instr, ∃ t, exec i s = .next t

/-! ### Whole-machine rules -/

/-- R52: the output stream only grows. Every step appends; an OUT appends at most one byte, `out_data`; a token row and a
control word append nothing. -/
def Obligations.OutputOnlyGrows : Prop :=
  (∀ s t : State, step s = .next t → s.sink <+: t.sink) ∧
  ∀ (i : Instr) (s t : State), exec i s = .next t →
    s.sink <+: t.sink ∧
    (i = .out → t.sink = if s.outValid = true then s.sink ++ [s.outData] else s.sink) ∧
    ((unitTokens i).isEmpty = true → i ≠ .out → t.sink = s.sink)

/-- R51: the input stream is consumed in order. Every step takes tokens from its front only; a token row takes the head
exactly when `in_ready = 1`; OUT and the control words take none. What `source`
loses where its first tokens are others is the model's choice (log 17). -/
def Obligations.InputIsConsumedInOrder : Prop :=
  (∀ s t : State, step s = .next t → t.source <:+ s.source) ∧
  ∀ (i : Instr) (s t : State), exec i s = .next t →
    t.source <:+ s.source ∧
    (i.token.isSome = true → t.source = if s.inReady = true then s.source.tail else s.source) ∧
    (i.token.isSome = false → (unitTokens i).isEmpty = true → t.source = s.source)

/-- R230 and R232: the one exception. A step that enters ERROR is an `End` accepted in DEC mode in D_CNTHI or D_CNTLO, or
a truncated wire unit, whose last token is that `End`; it records the cause and the count bytes seen. -/
def Obligations.OnlyTruncationRaises : Prop :=
  ∀ (i : Instr) (s t : State), exec i s = .next t → t.st = .error → s.st ≠ .error →
    t.errCode = .truncated ∧
    ((i.token = some .eos ∧ s.mode = .dec ∧ s.inReady = true ∧
        (s.st = .dCntHi ∧ t.errInfo = 0#1 ∨ s.st = .dCntLo ∧ t.errInfo = 1#1)) ∨
      (∃ v v2, i = .trunc0 v v2) ∨ ∃ v v2 h, i = .trunc1 v v2 h)

/-- R235: the only ways out of ERROR are Start and Reset, and both clear the error. -/
def Obligations.ErrorIsLeftOnlyByStartOrReset : Prop :=
  ∀ (i : Instr) (s t : State), exec i s = .next t → s.st = .error → t.st ≠ .error →
    ((∃ x, i = .reset x) ∨ (i = .startEnc ∨ i = .startDec) ∧ s.busy = false) ∧
    t.errCode = .none ∧ t.errInfo = 0#1

/-- R242: a state that is not busy is quiescent: no step but Start or Reset changes it. -/
def Obligations.QuiescentStatesAreKept : Prop :=
  ∀ (i : Instr) (s : State), s.busy = false → (∀ x, i ≠ .reset x) → i ≠ .startEnc → i ≠ .startDec →
    exec i s = .next s

/-- R266: the mode changes only by an accepted Start, or by Reset. -/
def Obligations.ModeChangesOnlyByStartOrReset : Prop :=
  ∀ (i : Instr) (s t : State), exec i s = .next t → t.mode ≠ s.mode →
    (∃ x, i = .reset x) ∨ ((i = .startEnc ∨ i = .startDec) ∧ s.busy = false)

/-- R40 item 8: an ENC-mode step does not read `pend`, `chi` or `rep_val`, and a DEC-mode step does not read `run_val` or
`run_cnt`: with other values in them it does the same and leaves them there. (`rep_cnt` and `obuf`, which R33 and R34
read in both modes, are 0 and `[]` in the other mode by items 3 and 4.) -/
def Obligations.ModesShareNoState : Prop :=
  ∀ (i : Instr) (s : State), (i.token.isSome = true ∨ i = .out) →
    (s.mode = .enc → s.repCnt = 0#16 → ∀ (p c v : Byte),
      exec i { s with pend := p, chi := c, repVal := v } =
        andThen (exec i s) fun t => .next { t with pend := p, chi := c, repVal := v }) ∧
    (s.mode = .dec → ∀ (v : Byte) (n : Count),
      exec i { s with runVal := v, runCnt := n } = andThen (exec i s) fun t => .next { t with runVal := v, runCnt := n })

/-- R58: the output does not depend on the schedule. However the slots of offers and takes lie, the job comes to the same
end; and once it has ended, that end is the state reached. -/
def Obligations.ScheduleDoesNotMatter : Prop :=
  ∀ (n : Nat) (s t : State), (∀ m ∈ s.agenda.take n, m = .tok ∨ m = .out) → Sys2Proof.core.run n s = .next t →
    finish t = finish s ∧ (t.busy = false → finish s = .next { t with agenda := [] })

/-- R271: with a source that holds an `End` and a sink that takes, a legal job ends, within a bound. -/
def Obligations.FairSlotsEndTheJob : Prop :=
  ∀ (n : Nat) (s : State) (more : List HostMove), s.Legal → Token.eos ∈ s.source.map tokenOf →
    s.agenda = (List.replicate n [HostMove.tok, HostMove.out]).flatten ++ more →
    65536 * s.source.length + s.pendingOut ≤ n →
    ∃ t, Sys2Proof.core.run (2 * n) s = .next t ∧ t.busy = false ∧ t.agenda = more

/-! ### Whole jobs -/

/-- R177: an encode job ends in DONE and its output is `compress(S)`; the counters report the bytes in and out. What
`source` loses where its first tokens are others is the model's choice (log 17). -/
def Obligations.EncodeJobEmitsCompress : Prop :=
  ∀ (bs : List Byte) (s : State), s.busy = false →
    ∃ t, job .enc bs s = .next t ∧ t.done = true ∧ t.mode = .enc ∧ t.sink = s.sink ++ compress bs ∧
      t.inCount = BitVec.ofNat 32 bs.length ∧ t.outCount = BitVec.ofNat 32 (compress bs).length ∧
      t.source = s.source.drop (bs.length + 1) ∧ t.agenda = s.agenda

/-- R178: a decode job's output is the expansions of the complete units, and it ends in DONE, or in ERROR when the last
unit is incomplete. What `source`
loses where its first tokens are others is the model's choice (log 17). -/
def Obligations.DecodeJobEmitsDecompress : Prop :=
  ∀ (ws : List Byte) (s : State), s.busy = false →
    ∃ t, job .dec ws s = .next t ∧ t.mode = .dec ∧ t.sink = s.sink ++ decompress ws ∧
      t.inCount = BitVec.ofNat 32 ws.length ∧ t.outCount = BitVec.ofNat 32 (decompress ws).length ∧
      t.source = s.source.drop (ws.length + 1) ∧ t.agenda = s.agenda ∧
      match truncation ws with
      | none => t.done = true ∧ t.error = false
      | some k => t.error = true ∧ t.done = false ∧ t.errCode = .truncated ∧ t.errInfo = k

/-- R179: the round-trip law. What an encode job emits, a decode job turns back into the input, and ends in DONE. The
job runs on any source (log 17). -/
def Obligations.RoundTripGivesTheInputBack : Prop :=
  ∀ (bs : List Byte) (s : State), s.busy = false →
    ∃ (w : List Byte) (t u : State), job .enc bs s = .next t ∧ t.sink = s.sink ++ w ∧
      job .dec w t = .next u ∧ u.sink = t.sink ++ bs ∧ u.done = true ∧ u.error = false

/-- R180: a stream with no two equal adjacent bytes is its own encoding and its own decoding. The job runs on any
source (log 17). -/
def Obligations.NoRepeatsIsAFixedPoint : Prop :=
  ∀ (bs : List Byte) (s : State), s.busy = false → bs.IsChain (· ≠ ·) →
    ∃ t u, job .enc bs s = .next t ∧ t.sink = s.sink ++ bs ∧ job .dec bs s = .next u ∧ u.sink = s.sink ++ bs ∧
      u.done = true

/-- R181: the empty stream encodes and decodes to the empty stream. The job runs on any
source (log 17). -/
def Obligations.EmptyStreamStaysEmpty : Prop :=
  ∀ (s : State), s.busy = false →
    (∃ t, job .enc [] s = .next t ∧ t.sink = s.sink ∧ t.done = true) ∧
    ∃ t, job .dec [] s = .next t ∧ t.sink = s.sink ∧ t.done = true

/-- R183: runs of exactly 65535 and 65536 bytes: one unit, and two; both come back whole. The job runs on any
source (log 17). -/
def Obligations.RunsAtTheCountBoundary : Prop :=
  ∀ (v : Byte) (s : State), s.busy = false →
    (∃ t u, job .enc (List.replicate 65535 v) s = .next t ∧ t.sink = s.sink ++ [v, v, 0xFF#8, 0xFF#8] ∧
      job .dec [v, v, 0xFF#8, 0xFF#8] t = .next u ∧ u.sink = t.sink ++ List.replicate 65535 v ∧ u.done = true) ∧
    ∃ t u, job .enc (List.replicate 65536 v) s = .next t ∧ t.sink = s.sink ++ [v, v, 0xFF#8, 0xFF#8, v] ∧
      job .dec [v, v, 0xFF#8, 0xFF#8, v] t = .next u ∧ u.sink = t.sink ++ List.replicate 65536 v ∧ u.done = true

/-- R182: the size bounds of the closed forms. The length of one run's encoding; `len(compress(S)) ≤ 2·len(S)`, with
equality exactly when every run has length 2; and the bound on `decompress`, multiplied by 4. -/
def Obligations.SizeBounds : Prop :=
  (∀ (v : Byte) (n : Nat), 1 ≤ n →
    (runUnits v n).length = 4 * ((n - 1) / 65535) + if n - 65535 * ((n - 1) / 65535) = 1 then 1 else 4) ∧
  (∀ bs : List Byte, (compress bs).length ≤ 2 * bs.length ∧
    ((compress bs).length = 2 * bs.length ↔ ∀ r ∈ runs bs, r.2 = 2)) ∧
  ∀ ws : List Byte, 4 * (decompress ws).length ≤ 65535 * ws.length + 4 * ws.length
end

