-- ==== Sys2Proof/Laws/State.lean ====
section
/-! SUPPORT. One lemma per field per update of the state (R10: a register that a rule does not write keeps its value),
true by `rfl`, so that no later proof unfolds an update. -/

namespace Sys2Proof.Machine

variable (s : State)

@[simp] theorem State.accept_st : (s.accept).st = s.st := rfl
@[simp] theorem State.accept_mode : (s.accept).mode = s.mode := rfl
@[simp] theorem State.accept_runVal : (s.accept).runVal = s.runVal := rfl
@[simp] theorem State.accept_runCnt : (s.accept).runCnt = s.runCnt := rfl
@[simp] theorem State.accept_pend : (s.accept).pend = s.pend := rfl
@[simp] theorem State.accept_chi : (s.accept).chi = s.chi := rfl
@[simp] theorem State.accept_obuf : (s.accept).obuf = s.obuf := rfl
@[simp] theorem State.accept_repVal : (s.accept).repVal = s.repVal := rfl
@[simp] theorem State.accept_repCnt : (s.accept).repCnt = s.repCnt := rfl
@[simp] theorem State.accept_errCode : (s.accept).errCode = s.errCode := rfl
@[simp] theorem State.accept_errInfo : (s.accept).errInfo = s.errInfo := rfl
@[simp] theorem State.accept_inCount : (s.accept).inCount = s.inCount := rfl
@[simp] theorem State.accept_outCount : (s.accept).outCount = s.outCount := rfl
@[simp] theorem State.accept_source : (s.accept).source = s.source.tail := rfl
@[simp] theorem State.accept_sink : (s.accept).sink = s.sink := rfl
@[simp] theorem State.accept_agenda : (s.accept).agenda = s.agenda := rfl

@[simp] theorem State.takeByte_st : (s.takeByte).st = s.st := rfl
@[simp] theorem State.takeByte_mode : (s.takeByte).mode = s.mode := rfl
@[simp] theorem State.takeByte_runVal : (s.takeByte).runVal = s.runVal := rfl
@[simp] theorem State.takeByte_runCnt : (s.takeByte).runCnt = s.runCnt := rfl
@[simp] theorem State.takeByte_pend : (s.takeByte).pend = s.pend := rfl
@[simp] theorem State.takeByte_chi : (s.takeByte).chi = s.chi := rfl
@[simp] theorem State.takeByte_obuf : (s.takeByte).obuf = s.obuf := rfl
@[simp] theorem State.takeByte_repVal : (s.takeByte).repVal = s.repVal := rfl
@[simp] theorem State.takeByte_repCnt : (s.takeByte).repCnt = s.repCnt := rfl
@[simp] theorem State.takeByte_errCode : (s.takeByte).errCode = s.errCode := rfl
@[simp] theorem State.takeByte_errInfo : (s.takeByte).errInfo = s.errInfo := rfl
@[simp] theorem State.takeByte_inCount : (s.takeByte).inCount = s.inCount + 1#32 := rfl
@[simp] theorem State.takeByte_outCount : (s.takeByte).outCount = s.outCount := rfl
@[simp] theorem State.takeByte_source : (s.takeByte).source = s.source.tail := rfl
@[simp] theorem State.takeByte_sink : (s.takeByte).sink = s.sink := rfl
@[simp] theorem State.takeByte_agenda : (s.takeByte).agenda = s.agenda := rfl

@[simp] theorem State.emit_st (b : Byte) : (s.emit b).st = s.st := rfl
@[simp] theorem State.emit_mode (b : Byte) : (s.emit b).mode = s.mode := rfl
@[simp] theorem State.emit_runVal (b : Byte) : (s.emit b).runVal = s.runVal := rfl
@[simp] theorem State.emit_runCnt (b : Byte) : (s.emit b).runCnt = s.runCnt := rfl
@[simp] theorem State.emit_pend (b : Byte) : (s.emit b).pend = s.pend := rfl
@[simp] theorem State.emit_chi (b : Byte) : (s.emit b).chi = s.chi := rfl
@[simp] theorem State.emit_obuf (b : Byte) : (s.emit b).obuf = s.obuf := rfl
@[simp] theorem State.emit_repVal (b : Byte) : (s.emit b).repVal = s.repVal := rfl
@[simp] theorem State.emit_repCnt (b : Byte) : (s.emit b).repCnt = s.repCnt := rfl
@[simp] theorem State.emit_errCode (b : Byte) : (s.emit b).errCode = s.errCode := rfl
@[simp] theorem State.emit_errInfo (b : Byte) : (s.emit b).errInfo = s.errInfo := rfl
@[simp] theorem State.emit_inCount (b : Byte) : (s.emit b).inCount = s.inCount := rfl
@[simp] theorem State.emit_outCount (b : Byte) : (s.emit b).outCount = s.outCount + 1#32 := rfl
@[simp] theorem State.emit_source (b : Byte) : (s.emit b).source = s.source := rfl
@[simp] theorem State.emit_sink (b : Byte) : (s.emit b).sink = s.sink ++ [b] := rfl
@[simp] theorem State.emit_agenda (b : Byte) : (s.emit b).agenda = s.agenda := rfl

@[simp] theorem State.setSt_st (c : Ctrl) : (s.setSt c).st = c := rfl
@[simp] theorem State.setSt_mode (c : Ctrl) : (s.setSt c).mode = s.mode := rfl
@[simp] theorem State.setSt_runVal (c : Ctrl) : (s.setSt c).runVal = s.runVal := rfl
@[simp] theorem State.setSt_runCnt (c : Ctrl) : (s.setSt c).runCnt = s.runCnt := rfl
@[simp] theorem State.setSt_pend (c : Ctrl) : (s.setSt c).pend = s.pend := rfl
@[simp] theorem State.setSt_chi (c : Ctrl) : (s.setSt c).chi = s.chi := rfl
@[simp] theorem State.setSt_obuf (c : Ctrl) : (s.setSt c).obuf = s.obuf := rfl
@[simp] theorem State.setSt_repVal (c : Ctrl) : (s.setSt c).repVal = s.repVal := rfl
@[simp] theorem State.setSt_repCnt (c : Ctrl) : (s.setSt c).repCnt = s.repCnt := rfl
@[simp] theorem State.setSt_errCode (c : Ctrl) : (s.setSt c).errCode = s.errCode := rfl
@[simp] theorem State.setSt_errInfo (c : Ctrl) : (s.setSt c).errInfo = s.errInfo := rfl
@[simp] theorem State.setSt_inCount (c : Ctrl) : (s.setSt c).inCount = s.inCount := rfl
@[simp] theorem State.setSt_outCount (c : Ctrl) : (s.setSt c).outCount = s.outCount := rfl
@[simp] theorem State.setSt_source (c : Ctrl) : (s.setSt c).source = s.source := rfl
@[simp] theorem State.setSt_sink (c : Ctrl) : (s.setSt c).sink = s.sink := rfl
@[simp] theorem State.setSt_agenda (c : Ctrl) : (s.setSt c).agenda = s.agenda := rfl

@[simp] theorem State.setMode_st (m : Mode) : (s.setMode m).st = s.st := rfl
@[simp] theorem State.setMode_mode (m : Mode) : (s.setMode m).mode = m := rfl
@[simp] theorem State.setMode_runVal (m : Mode) : (s.setMode m).runVal = s.runVal := rfl
@[simp] theorem State.setMode_runCnt (m : Mode) : (s.setMode m).runCnt = s.runCnt := rfl
@[simp] theorem State.setMode_pend (m : Mode) : (s.setMode m).pend = s.pend := rfl
@[simp] theorem State.setMode_chi (m : Mode) : (s.setMode m).chi = s.chi := rfl
@[simp] theorem State.setMode_obuf (m : Mode) : (s.setMode m).obuf = s.obuf := rfl
@[simp] theorem State.setMode_repVal (m : Mode) : (s.setMode m).repVal = s.repVal := rfl
@[simp] theorem State.setMode_repCnt (m : Mode) : (s.setMode m).repCnt = s.repCnt := rfl
@[simp] theorem State.setMode_errCode (m : Mode) : (s.setMode m).errCode = s.errCode := rfl
@[simp] theorem State.setMode_errInfo (m : Mode) : (s.setMode m).errInfo = s.errInfo := rfl
@[simp] theorem State.setMode_inCount (m : Mode) : (s.setMode m).inCount = s.inCount := rfl
@[simp] theorem State.setMode_outCount (m : Mode) : (s.setMode m).outCount = s.outCount := rfl
@[simp] theorem State.setMode_source (m : Mode) : (s.setMode m).source = s.source := rfl
@[simp] theorem State.setMode_sink (m : Mode) : (s.setMode m).sink = s.sink := rfl
@[simp] theorem State.setMode_agenda (m : Mode) : (s.setMode m).agenda = s.agenda := rfl

@[simp] theorem State.setRun_st (v : Byte) (c : Count) : (s.setRun v c).st = s.st := rfl
@[simp] theorem State.setRun_mode (v : Byte) (c : Count) : (s.setRun v c).mode = s.mode := rfl
@[simp] theorem State.setRun_runVal (v : Byte) (c : Count) : (s.setRun v c).runVal = v := rfl
@[simp] theorem State.setRun_runCnt (v : Byte) (c : Count) : (s.setRun v c).runCnt = c := rfl
@[simp] theorem State.setRun_pend (v : Byte) (c : Count) : (s.setRun v c).pend = s.pend := rfl
@[simp] theorem State.setRun_chi (v : Byte) (c : Count) : (s.setRun v c).chi = s.chi := rfl
@[simp] theorem State.setRun_obuf (v : Byte) (c : Count) : (s.setRun v c).obuf = s.obuf := rfl
@[simp] theorem State.setRun_repVal (v : Byte) (c : Count) : (s.setRun v c).repVal = s.repVal := rfl
@[simp] theorem State.setRun_repCnt (v : Byte) (c : Count) : (s.setRun v c).repCnt = s.repCnt := rfl
@[simp] theorem State.setRun_errCode (v : Byte) (c : Count) : (s.setRun v c).errCode = s.errCode := rfl
@[simp] theorem State.setRun_errInfo (v : Byte) (c : Count) : (s.setRun v c).errInfo = s.errInfo := rfl
@[simp] theorem State.setRun_inCount (v : Byte) (c : Count) : (s.setRun v c).inCount = s.inCount := rfl
@[simp] theorem State.setRun_outCount (v : Byte) (c : Count) : (s.setRun v c).outCount = s.outCount := rfl
@[simp] theorem State.setRun_source (v : Byte) (c : Count) : (s.setRun v c).source = s.source := rfl
@[simp] theorem State.setRun_sink (v : Byte) (c : Count) : (s.setRun v c).sink = s.sink := rfl
@[simp] theorem State.setRun_agenda (v : Byte) (c : Count) : (s.setRun v c).agenda = s.agenda := rfl

@[simp] theorem State.setPend_st (b : Byte) : (s.setPend b).st = s.st := rfl
@[simp] theorem State.setPend_mode (b : Byte) : (s.setPend b).mode = s.mode := rfl
@[simp] theorem State.setPend_runVal (b : Byte) : (s.setPend b).runVal = s.runVal := rfl
@[simp] theorem State.setPend_runCnt (b : Byte) : (s.setPend b).runCnt = s.runCnt := rfl
@[simp] theorem State.setPend_pend (b : Byte) : (s.setPend b).pend = b := rfl
@[simp] theorem State.setPend_chi (b : Byte) : (s.setPend b).chi = s.chi := rfl
@[simp] theorem State.setPend_obuf (b : Byte) : (s.setPend b).obuf = s.obuf := rfl
@[simp] theorem State.setPend_repVal (b : Byte) : (s.setPend b).repVal = s.repVal := rfl
@[simp] theorem State.setPend_repCnt (b : Byte) : (s.setPend b).repCnt = s.repCnt := rfl
@[simp] theorem State.setPend_errCode (b : Byte) : (s.setPend b).errCode = s.errCode := rfl
@[simp] theorem State.setPend_errInfo (b : Byte) : (s.setPend b).errInfo = s.errInfo := rfl
@[simp] theorem State.setPend_inCount (b : Byte) : (s.setPend b).inCount = s.inCount := rfl
@[simp] theorem State.setPend_outCount (b : Byte) : (s.setPend b).outCount = s.outCount := rfl
@[simp] theorem State.setPend_source (b : Byte) : (s.setPend b).source = s.source := rfl
@[simp] theorem State.setPend_sink (b : Byte) : (s.setPend b).sink = s.sink := rfl
@[simp] theorem State.setPend_agenda (b : Byte) : (s.setPend b).agenda = s.agenda := rfl

@[simp] theorem State.setChi_st (h : Byte) : (s.setChi h).st = s.st := rfl
@[simp] theorem State.setChi_mode (h : Byte) : (s.setChi h).mode = s.mode := rfl
@[simp] theorem State.setChi_runVal (h : Byte) : (s.setChi h).runVal = s.runVal := rfl
@[simp] theorem State.setChi_runCnt (h : Byte) : (s.setChi h).runCnt = s.runCnt := rfl
@[simp] theorem State.setChi_pend (h : Byte) : (s.setChi h).pend = s.pend := rfl
@[simp] theorem State.setChi_chi (h : Byte) : (s.setChi h).chi = h := rfl
@[simp] theorem State.setChi_obuf (h : Byte) : (s.setChi h).obuf = s.obuf := rfl
@[simp] theorem State.setChi_repVal (h : Byte) : (s.setChi h).repVal = s.repVal := rfl
@[simp] theorem State.setChi_repCnt (h : Byte) : (s.setChi h).repCnt = s.repCnt := rfl
@[simp] theorem State.setChi_errCode (h : Byte) : (s.setChi h).errCode = s.errCode := rfl
@[simp] theorem State.setChi_errInfo (h : Byte) : (s.setChi h).errInfo = s.errInfo := rfl
@[simp] theorem State.setChi_inCount (h : Byte) : (s.setChi h).inCount = s.inCount := rfl
@[simp] theorem State.setChi_outCount (h : Byte) : (s.setChi h).outCount = s.outCount := rfl
@[simp] theorem State.setChi_source (h : Byte) : (s.setChi h).source = s.source := rfl
@[simp] theorem State.setChi_sink (h : Byte) : (s.setChi h).sink = s.sink := rfl
@[simp] theorem State.setChi_agenda (h : Byte) : (s.setChi h).agenda = s.agenda := rfl

@[simp] theorem State.setObuf_st (q : OutQueue) : (s.setObuf q).st = s.st := rfl
@[simp] theorem State.setObuf_mode (q : OutQueue) : (s.setObuf q).mode = s.mode := rfl
@[simp] theorem State.setObuf_runVal (q : OutQueue) : (s.setObuf q).runVal = s.runVal := rfl
@[simp] theorem State.setObuf_runCnt (q : OutQueue) : (s.setObuf q).runCnt = s.runCnt := rfl
@[simp] theorem State.setObuf_pend (q : OutQueue) : (s.setObuf q).pend = s.pend := rfl
@[simp] theorem State.setObuf_chi (q : OutQueue) : (s.setObuf q).chi = s.chi := rfl
@[simp] theorem State.setObuf_obuf (q : OutQueue) : (s.setObuf q).obuf = q := rfl
@[simp] theorem State.setObuf_repVal (q : OutQueue) : (s.setObuf q).repVal = s.repVal := rfl
@[simp] theorem State.setObuf_repCnt (q : OutQueue) : (s.setObuf q).repCnt = s.repCnt := rfl
@[simp] theorem State.setObuf_errCode (q : OutQueue) : (s.setObuf q).errCode = s.errCode := rfl
@[simp] theorem State.setObuf_errInfo (q : OutQueue) : (s.setObuf q).errInfo = s.errInfo := rfl
@[simp] theorem State.setObuf_inCount (q : OutQueue) : (s.setObuf q).inCount = s.inCount := rfl
@[simp] theorem State.setObuf_outCount (q : OutQueue) : (s.setObuf q).outCount = s.outCount := rfl
@[simp] theorem State.setObuf_source (q : OutQueue) : (s.setObuf q).source = s.source := rfl
@[simp] theorem State.setObuf_sink (q : OutQueue) : (s.setObuf q).sink = s.sink := rfl
@[simp] theorem State.setObuf_agenda (q : OutQueue) : (s.setObuf q).agenda = s.agenda := rfl

@[simp] theorem State.setRep_st (v : Byte) (c : Count) : (s.setRep v c).st = s.st := rfl
@[simp] theorem State.setRep_mode (v : Byte) (c : Count) : (s.setRep v c).mode = s.mode := rfl
@[simp] theorem State.setRep_runVal (v : Byte) (c : Count) : (s.setRep v c).runVal = s.runVal := rfl
@[simp] theorem State.setRep_runCnt (v : Byte) (c : Count) : (s.setRep v c).runCnt = s.runCnt := rfl
@[simp] theorem State.setRep_pend (v : Byte) (c : Count) : (s.setRep v c).pend = s.pend := rfl
@[simp] theorem State.setRep_chi (v : Byte) (c : Count) : (s.setRep v c).chi = s.chi := rfl
@[simp] theorem State.setRep_obuf (v : Byte) (c : Count) : (s.setRep v c).obuf = s.obuf := rfl
@[simp] theorem State.setRep_repVal (v : Byte) (c : Count) : (s.setRep v c).repVal = v := rfl
@[simp] theorem State.setRep_repCnt (v : Byte) (c : Count) : (s.setRep v c).repCnt = c := rfl
@[simp] theorem State.setRep_errCode (v : Byte) (c : Count) : (s.setRep v c).errCode = s.errCode := rfl
@[simp] theorem State.setRep_errInfo (v : Byte) (c : Count) : (s.setRep v c).errInfo = s.errInfo := rfl
@[simp] theorem State.setRep_inCount (v : Byte) (c : Count) : (s.setRep v c).inCount = s.inCount := rfl
@[simp] theorem State.setRep_outCount (v : Byte) (c : Count) : (s.setRep v c).outCount = s.outCount := rfl
@[simp] theorem State.setRep_source (v : Byte) (c : Count) : (s.setRep v c).source = s.source := rfl
@[simp] theorem State.setRep_sink (v : Byte) (c : Count) : (s.setRep v c).sink = s.sink := rfl
@[simp] theorem State.setRep_agenda (v : Byte) (c : Count) : (s.setRep v c).agenda = s.agenda := rfl

@[simp] theorem State.setRepCnt_st (c : Count) : (s.setRepCnt c).st = s.st := rfl
@[simp] theorem State.setRepCnt_mode (c : Count) : (s.setRepCnt c).mode = s.mode := rfl
@[simp] theorem State.setRepCnt_runVal (c : Count) : (s.setRepCnt c).runVal = s.runVal := rfl
@[simp] theorem State.setRepCnt_runCnt (c : Count) : (s.setRepCnt c).runCnt = s.runCnt := rfl
@[simp] theorem State.setRepCnt_pend (c : Count) : (s.setRepCnt c).pend = s.pend := rfl
@[simp] theorem State.setRepCnt_chi (c : Count) : (s.setRepCnt c).chi = s.chi := rfl
@[simp] theorem State.setRepCnt_obuf (c : Count) : (s.setRepCnt c).obuf = s.obuf := rfl
@[simp] theorem State.setRepCnt_repVal (c : Count) : (s.setRepCnt c).repVal = s.repVal := rfl
@[simp] theorem State.setRepCnt_repCnt (c : Count) : (s.setRepCnt c).repCnt = c := rfl
@[simp] theorem State.setRepCnt_errCode (c : Count) : (s.setRepCnt c).errCode = s.errCode := rfl
@[simp] theorem State.setRepCnt_errInfo (c : Count) : (s.setRepCnt c).errInfo = s.errInfo := rfl
@[simp] theorem State.setRepCnt_inCount (c : Count) : (s.setRepCnt c).inCount = s.inCount := rfl
@[simp] theorem State.setRepCnt_outCount (c : Count) : (s.setRepCnt c).outCount = s.outCount := rfl
@[simp] theorem State.setRepCnt_source (c : Count) : (s.setRepCnt c).source = s.source := rfl
@[simp] theorem State.setRepCnt_sink (c : Count) : (s.setRepCnt c).sink = s.sink := rfl
@[simp] theorem State.setRepCnt_agenda (c : Count) : (s.setRepCnt c).agenda = s.agenda := rfl

@[simp] theorem State.setAgenda_st (l : List HostMove) : (s.setAgenda l).st = s.st := rfl
@[simp] theorem State.setAgenda_mode (l : List HostMove) : (s.setAgenda l).mode = s.mode := rfl
@[simp] theorem State.setAgenda_runVal (l : List HostMove) : (s.setAgenda l).runVal = s.runVal := rfl
@[simp] theorem State.setAgenda_runCnt (l : List HostMove) : (s.setAgenda l).runCnt = s.runCnt := rfl
@[simp] theorem State.setAgenda_pend (l : List HostMove) : (s.setAgenda l).pend = s.pend := rfl
@[simp] theorem State.setAgenda_chi (l : List HostMove) : (s.setAgenda l).chi = s.chi := rfl
@[simp] theorem State.setAgenda_obuf (l : List HostMove) : (s.setAgenda l).obuf = s.obuf := rfl
@[simp] theorem State.setAgenda_repVal (l : List HostMove) : (s.setAgenda l).repVal = s.repVal := rfl
@[simp] theorem State.setAgenda_repCnt (l : List HostMove) : (s.setAgenda l).repCnt = s.repCnt := rfl
@[simp] theorem State.setAgenda_errCode (l : List HostMove) : (s.setAgenda l).errCode = s.errCode := rfl
@[simp] theorem State.setAgenda_errInfo (l : List HostMove) : (s.setAgenda l).errInfo = s.errInfo := rfl
@[simp] theorem State.setAgenda_inCount (l : List HostMove) : (s.setAgenda l).inCount = s.inCount := rfl
@[simp] theorem State.setAgenda_outCount (l : List HostMove) : (s.setAgenda l).outCount = s.outCount := rfl
@[simp] theorem State.setAgenda_source (l : List HostMove) : (s.setAgenda l).source = s.source := rfl
@[simp] theorem State.setAgenda_sink (l : List HostMove) : (s.setAgenda l).sink = s.sink := rfl
@[simp] theorem State.setAgenda_agenda (l : List HostMove) : (s.setAgenda l).agenda = l := rfl

@[simp] theorem State.setSource_st (l : List TokenWord) : (s.setSource l).st = s.st := rfl
@[simp] theorem State.setSource_mode (l : List TokenWord) : (s.setSource l).mode = s.mode := rfl
@[simp] theorem State.setSource_runVal (l : List TokenWord) : (s.setSource l).runVal = s.runVal := rfl
@[simp] theorem State.setSource_runCnt (l : List TokenWord) : (s.setSource l).runCnt = s.runCnt := rfl
@[simp] theorem State.setSource_pend (l : List TokenWord) : (s.setSource l).pend = s.pend := rfl
@[simp] theorem State.setSource_chi (l : List TokenWord) : (s.setSource l).chi = s.chi := rfl
@[simp] theorem State.setSource_obuf (l : List TokenWord) : (s.setSource l).obuf = s.obuf := rfl
@[simp] theorem State.setSource_repVal (l : List TokenWord) : (s.setSource l).repVal = s.repVal := rfl
@[simp] theorem State.setSource_repCnt (l : List TokenWord) : (s.setSource l).repCnt = s.repCnt := rfl
@[simp] theorem State.setSource_errCode (l : List TokenWord) : (s.setSource l).errCode = s.errCode := rfl
@[simp] theorem State.setSource_errInfo (l : List TokenWord) : (s.setSource l).errInfo = s.errInfo := rfl
@[simp] theorem State.setSource_inCount (l : List TokenWord) : (s.setSource l).inCount = s.inCount := rfl
@[simp] theorem State.setSource_outCount (l : List TokenWord) : (s.setSource l).outCount = s.outCount := rfl
@[simp] theorem State.setSource_source (l : List TokenWord) : (s.setSource l).source = l := rfl
@[simp] theorem State.setSource_sink (l : List TokenWord) : (s.setSource l).sink = s.sink := rfl
@[simp] theorem State.setSource_agenda (l : List TokenWord) : (s.setSource l).agenda = s.agenda := rfl

@[simp] theorem State.raiseTruncated_st (i : BitVec 1) : (s.raiseTruncated i).st = Ctrl.error := rfl
@[simp] theorem State.raiseTruncated_mode (i : BitVec 1) : (s.raiseTruncated i).mode = s.mode := rfl
@[simp] theorem State.raiseTruncated_runVal (i : BitVec 1) : (s.raiseTruncated i).runVal = s.runVal := rfl
@[simp] theorem State.raiseTruncated_runCnt (i : BitVec 1) : (s.raiseTruncated i).runCnt = s.runCnt := rfl
@[simp] theorem State.raiseTruncated_pend (i : BitVec 1) : (s.raiseTruncated i).pend = s.pend := rfl
@[simp] theorem State.raiseTruncated_chi (i : BitVec 1) : (s.raiseTruncated i).chi = s.chi := rfl
@[simp] theorem State.raiseTruncated_obuf (i : BitVec 1) : (s.raiseTruncated i).obuf = s.obuf := rfl
@[simp] theorem State.raiseTruncated_repVal (i : BitVec 1) : (s.raiseTruncated i).repVal = s.repVal := rfl
@[simp] theorem State.raiseTruncated_repCnt (i : BitVec 1) : (s.raiseTruncated i).repCnt = s.repCnt := rfl
@[simp] theorem State.raiseTruncated_errCode (i : BitVec 1) : (s.raiseTruncated i).errCode = ErrCode.truncated := rfl
@[simp] theorem State.raiseTruncated_errInfo (i : BitVec 1) : (s.raiseTruncated i).errInfo = i := rfl
@[simp] theorem State.raiseTruncated_inCount (i : BitVec 1) : (s.raiseTruncated i).inCount = s.inCount := rfl
@[simp] theorem State.raiseTruncated_outCount (i : BitVec 1) : (s.raiseTruncated i).outCount = s.outCount := rfl
@[simp] theorem State.raiseTruncated_source (i : BitVec 1) : (s.raiseTruncated i).source = s.source := rfl
@[simp] theorem State.raiseTruncated_sink (i : BitVec 1) : (s.raiseTruncated i).sink = s.sink := rfl
@[simp] theorem State.raiseTruncated_agenda (i : BitVec 1) : (s.raiseTruncated i).agenda = s.agenda := rfl

@[simp] theorem State.clearJob_st : (s.clearJob).st = s.st := rfl
@[simp] theorem State.clearJob_mode : (s.clearJob).mode = s.mode := rfl
@[simp] theorem State.clearJob_runVal : (s.clearJob).runVal = 0x00#8 := rfl
@[simp] theorem State.clearJob_runCnt : (s.clearJob).runCnt = 0x0000#16 := rfl
@[simp] theorem State.clearJob_pend : (s.clearJob).pend = 0x00#8 := rfl
@[simp] theorem State.clearJob_chi : (s.clearJob).chi = 0x00#8 := rfl
@[simp] theorem State.clearJob_obuf : (s.clearJob).obuf = OutQueue.empty := rfl
@[simp] theorem State.clearJob_repVal : (s.clearJob).repVal = 0x00#8 := rfl
@[simp] theorem State.clearJob_repCnt : (s.clearJob).repCnt = 0x0000#16 := rfl
@[simp] theorem State.clearJob_errCode : (s.clearJob).errCode = ErrCode.none := rfl
@[simp] theorem State.clearJob_errInfo : (s.clearJob).errInfo = 0#1 := rfl
@[simp] theorem State.clearJob_inCount : (s.clearJob).inCount = 0#32 := rfl
@[simp] theorem State.clearJob_outCount : (s.clearJob).outCount = 0#32 := rfl
@[simp] theorem State.clearJob_source : (s.clearJob).source = s.source := rfl
@[simp] theorem State.clearJob_sink : (s.clearJob).sink = s.sink := rfl
@[simp] theorem State.clearJob_agenda : (s.clearJob).agenda = s.agenda := rfl

end Sys2Proof.Machine
end

