-- ==== Sys2Proof/Laws/Ops.lean ====
section
/-! SUPPORT. One lemma per shared operation that says once what it can do; later proofs cite these and do not unfold the
operations. -/

namespace Sys2Proof.Machine

/-! ### Outcomes -/

@[simp] theorem andThen_next (s : State) (k : State → Result) : andThen (.next s) k = k s := rfl
@[simp] theorem andThen_fault (f : Fault) (k : State → Result) : andThen (.fault f) k = .fault f := rfl
@[simp] theorem andThen_refused (f : Refusal) (k : State → Result) : andThen (.refused f) k = .refused f := rfl

@[simp] theorem andThen_next_right (r : Result) : andThen r .next = r := by cases r <;> rfl

theorem andThen_assoc (r : Result) (k k2 : State → Result) :
    andThen (andThen r k) k2 = andThen r fun s => andThen (k s) k2 := by cases r <;> rfl

/-- A composition answers a next state only through a next state of its first part. -/
theorem andThen_eq_next {r : Result} {k : State → Result} {t : State} :
    andThen r k = .next t ↔ ∃ s, r = .next s ∧ k s = .next t := by cases r <;> simp [andThen]

/-! ### The output queue (R26) -/

@[simp] theorem OutQueue.isEmpty_empty : OutQueue.empty.isEmpty = true := rfl
@[simp] theorem OutQueue.length_empty : OutQueue.empty.length = 0 := rfl
@[simp] theorem OutQueue.toList_empty : OutQueue.empty.toList = [] := rfl

theorem OutQueue.isEmpty_iff (q : OutQueue) : q.isEmpty = true ↔ q = .empty := by cases q <;> simp [OutQueue.isEmpty]

theorem OutQueue.isEmpty_iff_toList (q : OutQueue) : q.isEmpty = true ↔ q.toList = [] := by
  cases q <;> simp [OutQueue.isEmpty, OutQueue.toList]

theorem OutQueue.length_eq_zero (q : OutQueue) : q.length = 0 ↔ q = .empty := by cases q <;> simp [OutQueue.length]

@[simp] theorem OutQueue.length_toList (q : OutQueue) : q.toList.length = q.length := by cases q <;> rfl

theorem OutQueue.length_le (q : OutQueue) : q.length ≤ Config.obufDepth := by
  cases q <;> simp [OutQueue.length, Config.obufDepth]

@[simp] theorem OutQueue.toList_tail (q : OutQueue) : q.tail.toList = q.toList.tail := by cases q <;> rfl

/-- A queue that is not `[]` is its head and its tail. -/
theorem OutQueue.toList_of_not_isEmpty {q : OutQueue} (d : Byte) (h : q.isEmpty = false) :
    q.toList = q.headD d :: q.tail.toList := by
  cases q <;> first | rfl | simp [OutQueue.isEmpty] at h

theorem OutQueue.length_tail {q : OutQueue} (h : q.isEmpty = false) : q.tail.length + 1 = q.length := by
  cases q <;> first | rfl | simp [OutQueue.isEmpty] at h

/-! ### The framer (R170) -/

@[simp] theorem frameBytes_isEmpty (v : Byte) (c : Count) : (frameBytes v c).isEmpty = false := by
  unfold frameBytes; split <;> rfl

/-- What `obuf <- frame(v, c)` can answer. -/
theorem withFrame_cases (v : Byte) (c : Count) (k : OutQueue → State) :
    (c = 0#16 ∧ withFrame v c k = .refused .frameOfZero) ∨ (c ≠ 0#16 ∧ withFrame v c k = .next (k (frameBytes v c))) := by
  unfold withFrame frame
  by_cases h : c = 0#16 <;> simp [h]

@[simp] theorem withFrame_zero (v : Byte) (k : OutQueue → State) : withFrame v 0#16 k = .refused .frameOfZero := rfl

theorem withFrame_of_ne_zero {c : Count} (v : Byte) (k : OutQueue → State) (h : c ≠ 0#16) :
    withFrame v c k = .next (k (frameBytes v c)) := by simp [withFrame, frame, h]

theorem encSplit_eq (s : State) :
    encSplit s =
      .next ((s.takeByte.setObuf (.four s.runVal s.runVal 0xFF#8 0xFF#8)).setRun s.runVal 1#16) := by rfl

/-! ### The derived signals -/

theorem State.inReady_iff (s : State) :
    s.inReady = true ↔ s.st.active = true ∧ s.obuf = .empty ∧ s.repCnt = 0#16 := by
  simp [State.inReady, OutQueue.isEmpty_iff, and_assoc]

theorem State.outValid_eq_false_iff (s : State) : s.outValid = false ↔ s.obuf = .empty ∧ s.repCnt = 0#16 := by
  simp [State.outValid, OutQueue.isEmpty_iff]

theorem State.busy_eq_false_iff (s : State) :
    s.busy = false ↔ s.st.active = false ∧ s.obuf = .empty ∧ s.repCnt = 0#16 := by
  simp [State.busy, State.outValid_eq_false_iff]

theorem State.inReady_eq (s : State) : s.inReady = (s.st.active && !s.outValid) := by
  cases h1 : s.obuf.isEmpty <;> cases h2 : s.st.active <;> simp [State.inReady, State.outValid, h1, h2, bne]

theorem State.outValid_of_inReady {s : State} (h : s.inReady = true) : s.outValid = false := by
  rw [State.inReady_iff] at h; exact (State.outValid_eq_false_iff s).2 h.2

/-! ### The OUT step and draining (R172) -/

/-- What an OUT step writes: one byte goes to the sink, and the stage gets one byte shorter. -/
theorem outStep_cases (s : State) :
    (s.obuf.isEmpty = false ∧
      outStep s = { s with
        sink := s.sink ++ [s.outData], outCount := s.outCount + 1#32, obuf := s.obuf.tail }) ∨
    (s.obuf = .empty ∧
      outStep s = { s with
        sink := s.sink ++ [s.repVal], outCount := s.outCount + 1#32, repCnt := s.repCnt - 1#16 }) := by
  cases h : s.obuf.isEmpty
  · exact .inl ⟨rfl, by simp [outStep, h, State.emit, State.setObuf, State.outData]⟩
  · exact .inr ⟨(OutQueue.isEmpty_iff _).1 h, by simp [outStep, h, State.emit, State.setRepCnt]⟩

@[simp] theorem outStep_st (s : State) : (outStep s).st = s.st := by unfold outStep; split <;> rfl
@[simp] theorem outStep_mode (s : State) : (outStep s).mode = s.mode := by unfold outStep; split <;> rfl
@[simp] theorem outStep_runVal (s : State) : (outStep s).runVal = s.runVal := by unfold outStep; split <;> rfl
@[simp] theorem outStep_runCnt (s : State) : (outStep s).runCnt = s.runCnt := by unfold outStep; split <;> rfl
@[simp] theorem outStep_pend (s : State) : (outStep s).pend = s.pend := by unfold outStep; split <;> rfl
@[simp] theorem outStep_chi (s : State) : (outStep s).chi = s.chi := by unfold outStep; split <;> rfl
@[simp] theorem outStep_repVal (s : State) : (outStep s).repVal = s.repVal := by unfold outStep; split <;> rfl
@[simp] theorem outStep_errCode (s : State) : (outStep s).errCode = s.errCode := by unfold outStep; split <;> rfl
@[simp] theorem outStep_errInfo (s : State) : (outStep s).errInfo = s.errInfo := by unfold outStep; split <;> rfl
@[simp] theorem outStep_inCount (s : State) : (outStep s).inCount = s.inCount := by unfold outStep; split <;> rfl
@[simp] theorem outStep_outCount (s : State) : (outStep s).outCount = s.outCount + 1#32 := by
  unfold outStep; split <;> rfl
@[simp] theorem outStep_source (s : State) : (outStep s).source = s.source := by unfold outStep; split <;> rfl
@[simp] theorem outStep_agenda (s : State) : (outStep s).agenda = s.agenda := by unfold outStep; split <;> rfl
@[simp] theorem outStep_sink (s : State) : (outStep s).sink = s.sink ++ [s.outData] := by
  unfold outStep State.outData
  cases h : s.obuf <;> simp [OutQueue.isEmpty, OutQueue.headD]

theorem State.pendingOut_eq_zero_iff (s : State) : s.pendingOut = 0 ↔ s.outValid = false := by
  rw [State.outValid_eq_false_iff, State.pendingOut, Nat.add_eq_zero_iff, OutQueue.length_eq_zero]
  constructor
  · rintro ⟨h1, h2⟩; exact ⟨h1, BitVec.eq_of_toNat_eq h2⟩
  · rintro ⟨h1, h2⟩; exact ⟨h1, by simp [h2]⟩

/-- An enabled OUT step leaves one byte less to emit. -/
theorem pendingOut_outStep {s : State} (h : s.outValid = true) : (outStep s).pendingOut + 1 = s.pendingOut := by
  rcases outStep_cases s with ⟨hq, ht⟩ | ⟨hq, ht⟩
  · have := OutQueue.length_tail hq
    rw [ht]; simp only [State.pendingOut]; omega
  · have h0 : s.repCnt ≠ 0#16 := by
      intro h0; simp [(State.outValid_eq_false_iff s).2 ⟨hq, h0⟩] at h
    have : s.repCnt.toNat ≠ 0 := fun h1 => h0 (BitVec.eq_of_toNat_eq h1)
    have := s.repCnt.isLt
    rw [ht]; simp only [State.pendingOut, BitVec.toNat_sub, BitVec.toNat_ofNat]; omega

@[simp] theorem drain_of_not_outValid {s : State} (h : s.outValid = false) : s.drain = s := by
  simp [State.drain, (State.pendingOut_eq_zero_iff s).2 h, drainN]

/-- Draining starts with the OUT step that is enabled. -/
theorem drain_outStep {s : State} (h : s.outValid = true) : (outStep s).drain = s.drain := by
  rw [State.drain, State.drain, ← pendingOut_outStep h, drainN]

/-- Draining, by what the stage still holds: to prove `P s s.drain` of every state, prove it where nothing is pending, and
of a state from the state after its OUT step. -/
theorem drain_induction {P : State → State → Prop} (h0 : ∀ s, s.outValid = false → P s s)
    (h1 : ∀ s, s.outValid = true → P (outStep s) (outStep s).drain → P s (outStep s).drain) (s : State) :
    P s s.drain := by
  suffices H : ∀ n s, s.pendingOut = n → P s s.drain from H _ s rfl
  intro n
  induction n with
  | zero =>
    intro s hs
    have hv := (State.pendingOut_eq_zero_iff s).1 hs
    rw [drain_of_not_outValid hv]; exact h0 s hv
  | succ n ih =>
    intro s hs
    have hv : s.outValid = true := by
      cases hv : s.outValid
      · have := (State.pendingOut_eq_zero_iff s).2 hv; omega
      · rfl
    rw [← drain_outStep hv]
    exact h1 s hv (ih _ (by have := pendingOut_outStep hv; omega))

@[simp] theorem drain_outValid (s : State) : s.drain.outValid = false :=
  drain_induction (P := fun _ t => t.outValid = false) (fun _ h => h) (fun _ _ h => h) s
@[simp] theorem drain_st (s : State) : s.drain.st = s.st :=
  drain_induction (P := fun s t => t.st = s.st) (fun _ _ => rfl) (fun _ _ h => by simpa using h) s
@[simp] theorem drain_mode (s : State) : s.drain.mode = s.mode :=
  drain_induction (P := fun s t => t.mode = s.mode) (fun _ _ => rfl) (fun _ _ h => by simpa using h) s
@[simp] theorem drain_runVal (s : State) : s.drain.runVal = s.runVal :=
  drain_induction (P := fun s t => t.runVal = s.runVal) (fun _ _ => rfl) (fun _ _ h => by simpa using h) s
@[simp] theorem drain_runCnt (s : State) : s.drain.runCnt = s.runCnt :=
  drain_induction (P := fun s t => t.runCnt = s.runCnt) (fun _ _ => rfl) (fun _ _ h => by simpa using h) s
@[simp] theorem drain_pend (s : State) : s.drain.pend = s.pend :=
  drain_induction (P := fun s t => t.pend = s.pend) (fun _ _ => rfl) (fun _ _ h => by simpa using h) s
@[simp] theorem drain_chi (s : State) : s.drain.chi = s.chi :=
  drain_induction (P := fun s t => t.chi = s.chi) (fun _ _ => rfl) (fun _ _ h => by simpa using h) s
@[simp] theorem drain_repVal (s : State) : s.drain.repVal = s.repVal :=
  drain_induction (P := fun s t => t.repVal = s.repVal) (fun _ _ => rfl) (fun _ _ h => by simpa using h) s
@[simp] theorem drain_errCode (s : State) : s.drain.errCode = s.errCode :=
  drain_induction (P := fun s t => t.errCode = s.errCode) (fun _ _ => rfl) (fun _ _ h => by simpa using h) s
@[simp] theorem drain_errInfo (s : State) : s.drain.errInfo = s.errInfo :=
  drain_induction (P := fun s t => t.errInfo = s.errInfo) (fun _ _ => rfl) (fun _ _ h => by simpa using h) s
@[simp] theorem drain_inCount (s : State) : s.drain.inCount = s.inCount :=
  drain_induction (P := fun s t => t.inCount = s.inCount) (fun _ _ => rfl) (fun _ _ h => by simpa using h) s
@[simp] theorem drain_source (s : State) : s.drain.source = s.source :=
  drain_induction (P := fun s t => t.source = s.source) (fun _ _ => rfl) (fun _ _ h => by simpa using h) s
@[simp] theorem drain_agenda (s : State) : s.drain.agenda = s.agenda :=
  drain_induction (P := fun s t => t.agenda = s.agenda) (fun _ _ => rfl) (fun _ _ h => by simpa using h) s

@[simp] theorem drain_obuf (s : State) : s.drain.obuf = .empty :=
  ((State.outValid_eq_false_iff _).1 (drain_outValid s)).1
@[simp] theorem drain_repCnt (s : State) : s.drain.repCnt = 0#16 :=
  ((State.outValid_eq_false_iff _).1 (drain_outValid s)).2

/-- The bytes pending in the output stage, in the order they leave (R171, R173). -/
theorem drain_sink (s : State) :
    s.drain.sink = s.sink ++ (s.obuf.toList ++ List.replicate s.repCnt.toNat s.repVal) := by
  refine drain_induction
    (P := fun s t => t.sink = s.sink ++ (s.obuf.toList ++ List.replicate s.repCnt.toNat s.repVal)) ?_ ?_ s
  · intro s h
    obtain ⟨h1, h2⟩ := (State.outValid_eq_false_iff s).1 h
    simp [h1, h2]
  · intro s hv h
    rw [h, outStep_sink, outStep_repVal, List.append_assoc]
    congr 1
    rcases outStep_cases s with ⟨hq, ht⟩ | ⟨hq, ht⟩
    · have := OutQueue.toList_of_not_isEmpty s.repVal hq
      rw [ht, this]; simp [State.outData]
    · have h0 : s.repCnt.toNat ≠ 0 := by
        intro h0
        simp [(State.outValid_eq_false_iff s).2 ⟨hq, BitVec.eq_of_toNat_eq h0⟩] at hv
      have h1 : (s.repCnt - 1#16).toNat + 1 = s.repCnt.toNat := by
        have := s.repCnt.isLt; simp only [BitVec.toNat_sub, BitVec.toNat_ofNat]; omega
      rw [ht, ← h1]; simp [hq, State.outData, OutQueue.headD, List.replicate_succ]

theorem drain_outCount (s : State) : s.drain.outCount = s.outCount + BitVec.ofNat 32 s.pendingOut := by
  refine drain_induction (P := fun s t => t.outCount = s.outCount + BitVec.ofNat 32 s.pendingOut) ?_ ?_ s
  · intro s h; simp [(State.pendingOut_eq_zero_iff s).2 h]
  · intro s hv h
    rw [h, ← pendingOut_outStep hv, outStep_outCount, BitVec.ofNat_add, BitVec.add_assoc, BitVec.add_comm 1#32]

@[simp] theorem drain_drain (s : State) : s.drain.drain = s.drain := drain_of_not_outValid (drain_outValid s)

/-! ### The input step -/

/-- What an accepted token in ENC mode does, when it does something: R101 to R106. -/
theorem encAccept_cases {t : Token} {s s' : State} (h : encAccept t s = .next s') :
    (∃ b, t = .byte b ∧ s.st = .eEmpty ∧ s' = encOpenRun b s) ∨
    (∃ b, t = .byte b ∧ s.st = .eRun ∧ b = s.runVal ∧ s.runCnt < Config.maxCount ∧ s' = encExtend s) ∨
    (∃ b, t = .byte b ∧ s.st = .eRun ∧ b = s.runVal ∧ s.runCnt = Config.maxCount ∧
      s' = (s.takeByte.setObuf (.four s.runVal s.runVal 0xFF#8 0xFF#8)).setRun s.runVal 1#16) ∨
    (∃ b, t = .byte b ∧ s.st = .eRun ∧ b ≠ s.runVal ∧ s.runCnt ≠ 0#16 ∧
      s' = (s.takeByte.setObuf (frameBytes s.runVal s.runCnt)).setRun b 1#16) ∨
    (t = .eos ∧ s.st = .eEmpty ∧ s' = encFinishEmpty s) ∨
    (t = .eos ∧ s.st = .eRun ∧ s.runCnt ≠ 0#16 ∧
      s' = (s.accept.setObuf (frameBytes s.runVal s.runCnt)).setSt .done) := by
  unfold encAccept at h
  split at h
  · rename_i b hst
    simp only [Host.Outcome.next.injEq] at h
    exact .inl ⟨b, rfl, hst, h.symm⟩
  · rename_i b hst
    split at h
    · rename_i hb
      split at h
      · rename_i hc
        simp only [Host.Outcome.next.injEq] at h
        exact .inr (.inl ⟨b, rfl, hst, hb, hc, h.symm⟩)
      · rename_i hc
        rw [encSplit_eq, Host.Outcome.next.injEq] at h
        have hc' : s.runCnt = Config.maxCount := by
          apply BitVec.eq_of_toNat_eq
          simp only [BitVec.lt_def, Config.maxCount, BitVec.toNat_ofNat] at hc ⊢
          have := s.runCnt.isLt; omega
        exact .inr (.inr (.inl ⟨b, rfl, hst, hb, hc', h.symm⟩))
    · rename_i hb
      unfold encNewRun at h
      rcases withFrame_cases s.runVal s.runCnt (fun q => (s.takeByte.setObuf q).setRun b 1#16) with ⟨h0, h1⟩ | ⟨h0, h1⟩
      · rw [h1] at h; cases h
      · rw [h1, Host.Outcome.next.injEq] at h
        exact .inr (.inr (.inr (.inl ⟨b, rfl, hst, hb, h0, h.symm⟩)))
  · rename_i hst
    simp only [Host.Outcome.next.injEq] at h
    exact .inr (.inr (.inr (.inr (.inl ⟨rfl, hst, h.symm⟩))))
  · rename_i hst
    unfold encFinishRun at h
    rcases withFrame_cases s.runVal s.runCnt (fun q => (s.accept.setObuf q).setSt .done) with ⟨h0, h1⟩ | ⟨h0, h1⟩
    · rw [h1] at h; cases h
    · rw [h1, Host.Outcome.next.injEq] at h
      exact .inr (.inr (.inr (.inr (.inr ⟨rfl, hst, h0, h.symm⟩))))
  · cases h

/-- What an accepted token in DEC mode does, when it does something: R131 to R139. -/
theorem decAccept_cases {t : Token} {s s' : State} (h : decAccept t s = .next s') :
    (∃ b, t = .byte b ∧ s.st = .dEmpty ∧ s' = decRefill b s) ∨
    (∃ b, t = .byte b ∧ s.st = .dHave1 ∧ b = s.pend ∧ s' = decMarker s) ∨
    (∃ b, t = .byte b ∧ s.st = .dHave1 ∧ b ≠ s.pend ∧ s' = decLiteral b s) ∨
    (∃ b, t = .byte b ∧ s.st = .dCntHi ∧ s' = decCountHi b s) ∨
    (∃ b, t = .byte b ∧ s.st = .dCntLo ∧ s' = decCountLo b s) ∨
    (t = .eos ∧ s.st = .dEmpty ∧ s' = decFinish s) ∨
    (t = .eos ∧ s.st = .dHave1 ∧ s' = decFlush s) ∨
    (t = .eos ∧ s.st = .dCntHi ∧ s' = decTruncated0 s) ∨
    (t = .eos ∧ s.st = .dCntLo ∧ s' = decTruncated1 s) := by
  cases t <;> cases hst : s.st <;> simp only [decAccept, hst] at h <;>
    first
    | (cases h; done)
    | (split at h <;> simp_all)
    | simp_all

/-- What the input step does: nothing when it is not enabled, else its mode's dispatch. -/
theorem offer_cases {t : Token} {s s' : State} (h : offer t s = .next s') :
    (s.inReady = false ∧ s' = s) ∨ (s.inReady = true ∧ s.mode = .enc ∧ encAccept t s = .next s') ∨
    (s.inReady = true ∧ s.mode = .dec ∧ decAccept t s = .next s') := by
  unfold offer at h
  split at h
  · rename_i hr
    split at h
    · rename_i hm; exact .inr (.inl ⟨hr, hm, h⟩)
    · rename_i hm; exact .inr (.inr ⟨hr, hm, h⟩)
  · rename_i hr
    simp only [Host.Outcome.next.injEq] at h
    exact .inl ⟨by simpa using hr, h.symm⟩

@[simp] theorem offer_of_not_inReady {s : State} (t : Token) (h : s.inReady = false) : offer t s = .next s := by
  simp [offer, h]

theorem offer_enc {s : State} (t : Token) (h : s.inReady = true) (hm : s.mode = .enc) : offer t s = encAccept t s := by
  simp [offer, h, hm]

theorem offer_dec {s : State} (t : Token) (h : s.inReady = true) (hm : s.mode = .dec) : offer t s = decAccept t s := by
  simp [offer, h, hm]

/-! ### Feeding -/

@[simp] theorem feed_nil (s : State) : feed [] s = .next s := rfl

theorem feed_cons {s : State} (t : Token) (ts : List Token) (h : s.st.active = true) :
    feed (t :: ts) s = andThen (offer t s.drain) (feed ts) := by simp [feed, h]

@[simp] theorem feed_of_not_active {s : State} (ts : List Token) (h : s.st.active = false) : feed ts s = .next s := by
  cases ts <;> simp [feed, h]

theorem feed_singleton (t : Token) (s : State) :
    feed [t] s = if s.st.active = true then offer t s.drain else .next s := by
  cases h : s.st.active <;> simp [feed, h]

/-- What every OUT step and every input step keeps, feeding keeps: for a relation between the state before and after that
holds of doing nothing and of doing one thing after another. -/
theorem feed_induction {P : State → State → Prop} (refl : ∀ s, P s s) (trans : ∀ s t u, P s t → P t u → P s u)
    (hout : ∀ s, s.outValid = true → P s (outStep s)) (hoffer : ∀ t s s', offer t s = .next s' → P s s')
    {ts : List Token} {s s' : State} (h : feed ts s = .next s') : P s s' := by
  induction ts generalizing s with
  | nil => simp only [feed_nil, Host.Outcome.next.injEq] at h; exact h ▸ refl s
  | cons t ts ih =>
    cases ha : s.st.active
    · rw [feed_of_not_active _ ha, Host.Outcome.next.injEq] at h; exact h ▸ refl s
    · rw [feed_cons _ _ ha, andThen_eq_next] at h
      obtain ⟨m, hm, hf⟩ := h
      have hd : P s s.drain := drain_induction (P := P) (fun a _ => refl a) (fun a hv hp => trans _ _ _ (hout a hv) hp) s
      exact trans _ _ _ hd (trans _ _ _ (hoffer t _ _ hm) (ih hf))

/-- Feeding two lists is feeding the first and then the second. -/
theorem feed_append (ts us : List Token) (s : State) : feed (ts ++ us) s = andThen (feed ts s) (feed us) := by
  induction ts generalizing s with
  | nil => rfl
  | cons t ts ih =>
    cases h : s.st.active
    · simp [feed, h]
    · rw [List.cons_append, feed_cons _ _ h, feed_cons _ _ h, andThen_assoc]
      congr 1; funext a; exact ih a

/-! ### A step -/

/-- The token row a slot presents is the row of the source's head: no step runs a token row with another token in front
(R51, log 17). -/
theorem fetchToken_head {s : State} {i : Instr} (h : fetchToken s = some i) :
    ∃ w ws, s.source = w :: ws ∧ i.token = some (tokenOf w) := by
  unfold fetchToken at h
  split at h
  · cases h
  · rename_i w ws hw
    cases h
    refine ⟨w, ws, hw, ?_⟩
    cases s.mode <;> cases he : tokE w <;> simp [decodeTok, tokenOf, he, Instr.token]

/-- What a step does, when it answers a next state: nothing with no slot left; else the slot is used up, and its
instruction, if it presents one, is run. -/
theorem step_cases {s t : State} (h : step s = .next t) :
    (s.agenda = [] ∧ t = s) ∨
    ∃ m rest, s.agenda = m :: rest ∧
      ((fetch m (s.setAgenda rest) = none ∧ t = s.setAgenda rest) ∨
        ∃ i, fetch m (s.setAgenda rest) = some i ∧ exec i (s.setAgenda rest) = .next t) := by
  unfold step at h
  split at h
  · rename_i ha
    simp only [Host.Outcome.next.injEq] at h
    exact .inl ⟨ha, h.symm⟩
  · rename_i m rest ha
    refine .inr ⟨m, rest, ha, ?_⟩
    split at h
    · rename_i hf
      simp only [Host.Outcome.next.injEq] at h
      exact .inl ⟨hf, h.symm⟩
    · rename_i i hf
      exact .inr ⟨i, hf, h⟩

end Sys2Proof.Machine
end

