-- ==== Sys2Proof/Laws/ClosedForms.lean ====
section
/-! SUPPORT. The equations of the closed forms, so that no proof unfolds them. -/

namespace Sys2Proof.Machine

/-! ### The parse of a wire (R75, R77, R178) -/

theorem parseUnits_nil : parseUnits [] = ([], none) := by simp only [parseUnits]

theorem parseUnits_one (v : Byte) : parseUnits [v] = ([.lit v], none) := by simp only [parseUnits]

theorem parseUnits_lit (rest : List Byte) {v w : Byte} (h : w ≠ v) :
    parseUnits (v :: w :: rest) = (.lit v :: (parseUnits (w :: rest)).1, (parseUnits (w :: rest)).2) := by
  rw [parseUnits.eq_def]; simp [h]

theorem parseUnits_marker (v : Byte) : parseUnits [v, v] = ([], some 0#1) := by rw [parseUnits.eq_def]; simp

theorem parseUnits_high (v h : Byte) : parseUnits [v, v, h] = ([], some 1#1) := by rw [parseUnits.eq_def]; simp

theorem parseUnits_long (v h l : Byte) (more : List Byte) :
    parseUnits (v :: v :: h :: l :: more) =
      (.long v (countOf h l) :: (parseUnits more).1, (parseUnits more).2) := by
  rw [parseUnits.eq_def]; simp

/-! ### Chunks and frames (R170, R175) -/

theorem frameList_toNat (v : Byte) {c : Count} (h : c ≠ 0#16) :
    frameList v c.toNat = (frameBytes v c).toList := by
  simp [frameList, frame, h]

theorem frameList_one (v : Byte) : frameList v 1 = [v] := by
  have h := frameList_toNat v (c := 1#16) (by decide)
  exact h

theorem frameList_max (v : Byte) : frameList v 65535 = [v, v, 0xFF#8, 0xFF#8] := by
  have h := frameList_toNat v (c := Config.maxCount) (by decide)
  have e : Config.maxCount.toNat = 65535 := by decide
  rw [e] at h
  rw [h, frameBytes, if_neg (by decide)]
  exact congrArg (fun x : List Byte => v :: v :: x) (by decide)

theorem chunks_of_le {n : Nat} (h1 : 1 ≤ n) (h2 : n ≤ 65535) : chunks n = [n] := by
  have : (n - 1) / 65535 = 0 := by omega
  simp [chunks, this]

theorem chunks_add {n : Nat} (h : 1 ≤ n) : chunks (65535 + n) = 65535 :: chunks n := by
  have : (65535 + n - 1) / 65535 = (n - 1) / 65535 + 1 := by omega
  have e : 65535 + n - 65535 * ((n - 1) / 65535 + 1) = n - 65535 * ((n - 1) / 65535) := by omega
  unfold chunks
  rw [this, List.replicate_succ, List.cons_append, e]

theorem runUnits_of_le (v : Byte) {n : Nat} (h1 : 1 ≤ n) (h2 : n ≤ 65535) : runUnits v n = frameList v n := by
  simp [runUnits, chunks_of_le h1 h2]

theorem runUnits_add (v : Byte) {n : Nat} (h : 1 ≤ n) :
    runUnits v (65535 + n) = [v, v, 0xFF#8, 0xFF#8] ++ runUnits v n := by
  simp [runUnits, chunks_add h, frameList_max]

end Sys2Proof.Machine
end

