-- ==== Sys2Proof/Laws/Decode.lean ====
section
/-! SUPPORT. The fields of a token word, the words of a token (R70) and the 32-bit word of a long-form unit (R74):
reading a field of a word that was put together gives the field back, and putting a word's fields together gives the word
back. -/

namespace Sys2Proof

/-- Bit 8 and bits 7:0 of a word put together, and a word taken apart, on all words. -/
theorem tokWord_table :
    (∀ d : Byte, tokE (tokWord false d) = false ∧ tokE (tokWord true d) = true ∧ tokD (tokWord false d) = d ∧
      tokD (tokWord true d) = d) ∧
    ∀ w : TokenWord, tokWord (tokE w) (tokD w) = w := by decide

@[simp] theorem tokE_tokWord (e : Bool) (d : Byte) : tokE (tokWord e d) = e := by
  cases e
  · exact (tokWord_table.1 d).1
  · exact (tokWord_table.1 d).2.1

@[simp] theorem tokD_tokWord (e : Bool) (d : Byte) : tokD (tokWord e d) = d := by
  cases e
  · exact (tokWord_table.1 d).2.2.1
  · exact (tokWord_table.1 d).2.2.2

@[simp] theorem tokWord_fields (w : TokenWord) : tokWord (tokE w) (tokD w) = w := tokWord_table.2 w

@[simp] theorem tokenOf_tokWord_false (d : Byte) : tokenOf (tokWord false d) = .byte d := by simp [tokenOf]

@[simp] theorem tokenOf_tokWord_true (d : Byte) : tokenOf (tokWord true d) = .eos := by simp [tokenOf]

@[simp] theorem tokenOf_wordOf (t : Token) : tokenOf (wordOf t) = t := by cases t <;> simp [wordOf]

/-- A token word is `Byte(b)` exactly when bit 8 is 0 and its data bits are `b`. -/
theorem tokenOf_eq_byte_iff (w : TokenWord) (b : Byte) : tokenOf w = .byte b ↔ tokE w = false ∧ tokD w = b := by
  cases h : tokE w <;> simp [tokenOf, h]

theorem tokenOf_eq_eos_iff (w : TokenWord) : tokenOf w = .eos ↔ tokE w = true := by
  cases h : tokE w <;> simp [tokenOf, h]

/-! ### The 32-bit word of a long-form unit (R74) -/

theorem longWord_toNat (v v2 h l : Byte) :
    (longWord v v2 h l).toNat = v.toNat * 2 ^ 24 + v2.toNat * 2 ^ 16 + h.toNat * 2 ^ 8 + l.toNat := by
  have := v.isLt; have := v2.isLt; have := h.isLt; have := l.isLt
  simp only [longWord, BitVec.toNat_append]
  rw [← Nat.shiftLeft_add_eq_or_of_lt (by omega), ← Nat.shiftLeft_add_eq_or_of_lt (by omega),
    ← Nat.shiftLeft_add_eq_or_of_lt (by omega)]
  simp only [Nat.shiftLeft_eq]
  omega

/-- The four fields, read as numbers. -/
theorem long_fields_toNat (w : LongWord) :
    (longV w).toNat = w.toNat / 2 ^ 24 % 2 ^ 8 ∧ (longV2 w).toNat = w.toNat / 2 ^ 16 % 2 ^ 8 ∧
      (longHi w).toNat = w.toNat / 2 ^ 8 % 2 ^ 8 ∧ (longLo w).toNat = w.toNat % 2 ^ 8 := by
  simp [longV, longV2, longHi, longLo, BitVec.extractLsb'_toNat, Nat.shiftRight_eq_div_pow]

/-- A field of a word that was put together is the field, all four at once. -/
theorem long_fields_longWord (v v2 h l : Byte) :
    longV (longWord v v2 h l) = v ∧ longV2 (longWord v v2 h l) = v2 ∧ longHi (longWord v v2 h l) = h ∧
      longLo (longWord v v2 h l) = l := by
  have hf := long_fields_toNat (longWord v v2 h l)
  rw [longWord_toNat] at hf
  have := v.isLt; have := v2.isLt; have := h.isLt; have := l.isLt
  refine ⟨?_, ?_, ?_, ?_⟩ <;> apply BitVec.eq_of_toNat_eq <;> omega

@[simp] theorem longV_longWord (v v2 h l : Byte) : longV (longWord v v2 h l) = v := (long_fields_longWord v v2 h l).1
@[simp] theorem longV2_longWord (v v2 h l : Byte) : longV2 (longWord v v2 h l) = v2 :=
  (long_fields_longWord v v2 h l).2.1
@[simp] theorem longHi_longWord (v v2 h l : Byte) : longHi (longWord v v2 h l) = h :=
  (long_fields_longWord v v2 h l).2.2.1
@[simp] theorem longLo_longWord (v v2 h l : Byte) : longLo (longWord v v2 h l) = l :=
  (long_fields_longWord v v2 h l).2.2.2

/-- A word is its four fields put together. -/
@[simp] theorem longWord_fields (w : LongWord) : longWord (longV w) (longV2 w) (longHi w) (longLo w) = w := by
  have hf := long_fields_toNat w
  have := w.isLt
  apply BitVec.eq_of_toNat_eq
  rw [longWord_toNat]; omega

/-- The table's reading of 32 bits is R74's. -/
@[simp] theorem wireBytes_four (w : LongWord) : wireBytes 4 w.toNat = longBytes w := by
  have hf := long_fields_toNat w
  simp only [wireBytes, longBytes, List.cons.injEq, and_true]
  refine ⟨?_, ?_, ?_, ?_⟩ <;> apply BitVec.eq_of_toNat_eq <;> simp only [BitVec.toNat_ofNat] <;> omega

/-- What decoding a 32-bit word can answer (R74). -/
theorem decodeLongWord_cases (w : LongWord) :
    (longV2 w = longV w ∧ decodeLongWord w = .ok (.long (longV w) (longV2 w) (longHi w) (longLo w))) ∨
    (longV2 w ≠ longV w ∧ decodeLongWord w = .error .noMarker) := by
  by_cases h : longV2 w = longV w <;> simp [decodeLongWord, h]

/-- What decoding a wire unit can answer when it answers a unit (R75, R77). -/
theorem decodeUnit_cases {ws rest : List TokenWord} {i : Instr} (h : decodeUnit ws = .ok (i, rest)) :
    (∃ w0 w1 r, ws = w0 :: w1 :: r ∧ tokE w0 = false ∧ tokenOf w1 ≠ .byte (tokD w0) ∧ i = .lit (tokD w0) ∧
      rest = w1 :: r) ∨
    (∃ w0 w1 w2, ws = w0 :: w1 :: w2 :: rest ∧ tokE w0 = false ∧ tokE w1 = false ∧ tokD w1 = tokD w0 ∧
      tokE w2 = true ∧ i = .trunc0 (tokD w0) (tokD w1)) ∨
    (∃ w0 w1 w2 w3, ws = w0 :: w1 :: w2 :: w3 :: rest ∧ tokE w0 = false ∧ tokE w1 = false ∧ tokD w1 = tokD w0 ∧
      tokE w2 = false ∧ tokE w3 = true ∧ i = .trunc1 (tokD w0) (tokD w1) (tokD w2)) ∨
    (∃ w0 w1 w2 w3, ws = w0 :: w1 :: w2 :: w3 :: rest ∧ tokE w0 = false ∧ tokE w1 = false ∧ tokD w1 = tokD w0 ∧
      tokE w2 = false ∧ tokE w3 = false ∧ i = .long (tokD w0) (tokD w1) (tokD w2) (tokD w3)) := by
  match ws with
  | [] => simp [decodeUnit] at h
  | [w0] => cases h0 : tokE w0 <;> simp [decodeUnit, h0] at h
  | w0 :: w1 :: r =>
    cases h0 : tokE w0
    · by_cases h1 : tokE w1 = false ∧ tokD w1 = tokD w0
      · match r with
        | [] => simp [decodeUnit, h0, h1] at h
        | w2 :: r2 =>
          cases h2 : tokE w2
          · match r2 with
            | [] => simp [decodeUnit, h0, h1, h2] at h
            | w3 :: r3 =>
              cases h3 : tokE w3 <;> simp [decodeUnit, h0, h1, h2, h3] at h
              · exact .inr (.inr (.inr ⟨w0, w1, w2, w3, by simp [h.2], h0, h1.1, h1.2, h2, h3, by simp [h1, h.1]⟩))
              · exact .inr (.inr (.inl ⟨w0, w1, w2, w3, by simp [h.2], h0, h1.1, h1.2, h2, h3, by simp [h1, h.1]⟩))
          · simp [decodeUnit, h0, h1, h2] at h
            exact .inr (.inl ⟨w0, w1, w2, by simp [h.2], h0, h1.1, h1.2, h2, by simp [h1, h.1]⟩)
      · have hc : (tokE w1 || tokD w1 != tokD w0) = true := by
          cases he : tokE w1 <;> simp_all
        simp only [decodeUnit, h0, hc] at h
        simp at h
        exact .inl ⟨w0, w1, r, rfl, h0, by rwa [Ne, tokenOf_eq_byte_iff], h.1.symm, h.2.symm⟩
    · simp [decodeUnit, h0] at h

end Sys2Proof
end

