-- ==== Sys2Proof/Laws/PerInstr.lean ====
section
/-! SUPPORT. One statement about every instruction as syntax, per constructor: its encoding lies in its row of
spec/opcode_table.json. A control or token word meets the row's `mask` and `match`; OUT has no word; a wire unit has the
row's length, its bytes 0 and 1 equal when it is well formed, `End` last in the truncated ones, and a long-form unit's
bytes are those of its 32-bit word, first byte in bits 31:24 (R71, R70, R73 to R77). -/

namespace Sys2Proof.Laws

/-- A row's `mask` and `match` on the word an instruction encodes to. -/
def TableRow.InRow (i : Instr) (mask value : Nat) : Prop :=
  match encode i with
  | .ctl w => w.toNat &&& mask = value
  | .tok w => w.toNat &&& mask = value
  | .take => mask = 0 ∧ value = 0
  | .wire _ => False

/-- The tokens of a wire unit are `n` tokens whose first two are equal when the unit is well formed. -/
def TableRow.InUnitRow (i : Instr) (n : Nat) : Prop :=
  encode i = .wire ((unitTokens i).map wordOf) ∧ (unitTokens i).length = n ∧
  (i.wellFormed = true → 2 ≤ n → (unitTokens i)[0]? = (unitTokens i)[1]?)

def TableRow.Statement : Instr → Prop
  | .reset x => InRow (.reset x) 0x1 0x1
  | .startEnc => InRow (.startEnc) 0x7 0x2
  | .startDec => InRow (.startDec) 0x7 0x6
  | .nop x => InRow (.nop x) 0x3 0x0
  | .encByte b => InRow (.encByte b) 0x100 0x0
  | .encByteEEmpty b => InRow (.encByteEEmpty b) 0x100 0x0
  | .encByteExtend b => InRow (.encByteExtend b) 0x100 0x0
  | .encByteSplit b => InRow (.encByteSplit b) 0x100 0x0
  | .encByteNewRun b => InRow (.encByteNewRun b) 0x100 0x0
  | .encEnd d => InRow (.encEnd d) 0x100 0x100
  | .encEndEEmpty d => InRow (.encEndEEmpty d) 0x100 0x100
  | .encEndERun d => InRow (.encEndERun d) 0x100 0x100
  | .decByte b => InRow (.decByte b) 0x100 0x0
  | .decByteDEmpty b => InRow (.decByteDEmpty b) 0x100 0x0
  | .decByteLiteral b => InRow (.decByteLiteral b) 0x100 0x0
  | .decByteMarker b => InRow (.decByteMarker b) 0x100 0x0
  | .decByteCntHi b => InRow (.decByteCntHi b) 0x100 0x0
  | .decByteCntLo b => InRow (.decByteCntLo b) 0x100 0x0
  | .decEnd d => InRow (.decEnd d) 0x100 0x100
  | .decEndDEmpty d => InRow (.decEndDEmpty d) 0x100 0x100
  | .decEndDHave1 d => InRow (.decEndDHave1 d) 0x100 0x100
  | .decEndDCntHi d => InRow (.decEndDCntHi d) 0x100 0x100
  | .decEndDCntLo d => InRow (.decEndDCntLo d) 0x100 0x100
  | .out => InRow .out 0 0
  | .lit v => InUnitRow (.lit v) Config.litLen
  | .long v v2 h l => InUnitRow (.long v v2 h l) Config.longLen ∧
    unitTokens (.long v v2 h l) = (longBytes (longWord v v2 h l)).map .byte
  | .trunc0 v v2 => InUnitRow (.trunc0 v v2) 3 ∧ (unitTokens (.trunc0 v v2))[2]? = some .eos
  | .trunc1 v v2 h => InUnitRow (.trunc1 v v2 h) 4 ∧ (unitTokens (.trunc1 v v2 h))[3]? = some .eos

theorem TableRow.tokWord_false_mask : ∀ b : Byte, (tokWord false b).toNat &&& 0x100 = 0x0 := by decide

theorem TableRow.tokWord_true_mask : ∀ b : Byte, (tokWord true b).toNat &&& 0x100 = 0x100 := by decide

theorem TableRow.reset (x : BitVec 2) : TableRow.Statement (.reset x) := by revert x; simp only [Statement, InRow, encode]; decide
theorem TableRow.startEnc : TableRow.Statement .startEnc := by simp only [Statement, InRow, encode]; decide
theorem TableRow.startDec : TableRow.Statement .startDec := by simp only [Statement, InRow, encode]; decide
theorem TableRow.nop (x : BitVec 1) : TableRow.Statement (.nop x) := by revert x; simp only [Statement, InRow, encode]; decide
theorem TableRow.encByte (b : BitVec 8) : TableRow.Statement (.encByte b) := tokWord_false_mask b
theorem TableRow.encByteEEmpty (b : BitVec 8) : TableRow.Statement (.encByteEEmpty b) := tokWord_false_mask b
theorem TableRow.encByteExtend (b : BitVec 8) : TableRow.Statement (.encByteExtend b) := tokWord_false_mask b
theorem TableRow.encByteSplit (b : BitVec 8) : TableRow.Statement (.encByteSplit b) := tokWord_false_mask b
theorem TableRow.encByteNewRun (b : BitVec 8) : TableRow.Statement (.encByteNewRun b) := tokWord_false_mask b
theorem TableRow.encEnd (d : BitVec 8) : TableRow.Statement (.encEnd d) := tokWord_true_mask d
theorem TableRow.encEndEEmpty (d : BitVec 8) : TableRow.Statement (.encEndEEmpty d) := tokWord_true_mask d
theorem TableRow.encEndERun (d : BitVec 8) : TableRow.Statement (.encEndERun d) := tokWord_true_mask d
theorem TableRow.decByte (b : BitVec 8) : TableRow.Statement (.decByte b) := tokWord_false_mask b
theorem TableRow.decByteDEmpty (b : BitVec 8) : TableRow.Statement (.decByteDEmpty b) := tokWord_false_mask b
theorem TableRow.decByteLiteral (b : BitVec 8) : TableRow.Statement (.decByteLiteral b) := tokWord_false_mask b
theorem TableRow.decByteMarker (b : BitVec 8) : TableRow.Statement (.decByteMarker b) := tokWord_false_mask b
theorem TableRow.decByteCntHi (b : BitVec 8) : TableRow.Statement (.decByteCntHi b) := tokWord_false_mask b
theorem TableRow.decByteCntLo (b : BitVec 8) : TableRow.Statement (.decByteCntLo b) := tokWord_false_mask b
theorem TableRow.decEnd (d : BitVec 8) : TableRow.Statement (.decEnd d) := tokWord_true_mask d
theorem TableRow.decEndDEmpty (d : BitVec 8) : TableRow.Statement (.decEndDEmpty d) := tokWord_true_mask d
theorem TableRow.decEndDHave1 (d : BitVec 8) : TableRow.Statement (.decEndDHave1 d) := tokWord_true_mask d
theorem TableRow.decEndDCntHi (d : BitVec 8) : TableRow.Statement (.decEndDCntHi d) := tokWord_true_mask d
theorem TableRow.decEndDCntLo (d : BitVec 8) : TableRow.Statement (.decEndDCntLo d) := tokWord_true_mask d
theorem TableRow.out : TableRow.Statement .out := ⟨rfl, rfl⟩
theorem TableRow.lit (v : Byte) : TableRow.Statement (.lit v) := ⟨rfl, rfl, fun _ h => absurd h (by decide)⟩
theorem TableRow.long (v v2 h l : Byte) : TableRow.Statement (.long v v2 h l) :=
  ⟨⟨rfl, rfl, fun hw _ => by simp [Instr.wellFormed] at hw; simp [unitTokens, hw]⟩, by simp [unitTokens, longBytes]⟩
theorem TableRow.trunc0 (v v2 : Byte) : TableRow.Statement (.trunc0 v v2) :=
  ⟨⟨rfl, rfl, fun hw _ => by simp [Instr.wellFormed] at hw; simp [unitTokens, hw]⟩, rfl⟩
theorem TableRow.trunc1 (v v2 h : Byte) : TableRow.Statement (.trunc1 v v2 h) :=
  ⟨⟨rfl, rfl, fun hw _ => by simp [Instr.wellFormed] at hw; simp [unitTokens, hw]⟩, rfl⟩

end Sys2Proof.Laws
end

