-- ==== Sys2Proof/Tests/Slice0.lean ====
section
/-! SUPPORT. The model's own tests. Expected results come from spec/95_test_vectors.md (the identifier stands before each
test), from the tables of spec/30_encoding.md, or by hand from a rule. After them, one witness for the hypotheses of
every statement that has some. -/

namespace Sys2Proof.Tests

open Sys2Proof Sys2Proof.Machine

/-- An ENC job in control state `c` with its run registers. -/
def encState (c : Ctrl) (v : Byte) (n : Count) : State :=
  { State.reset with st := c, mode := .enc, runVal := v, runCnt := n }

/-- A DEC job in control state `c` with its lookahead and its count high byte. -/
def decState (c : Ctrl) (p h : Byte) : State :=
  { State.reset with st := c, mode := .dec, pend := p, chi := h }

/-- The failed DEC job of P3, line 8. -/
def errorState : State :=
  { State.reset with
    st := .error, mode := .dec, pend := 0x41#8, repVal := 0x07#8, errCode := .truncated, errInfo := 1#1,
    inCount := 4#32, outCount := 1#32 }

/-! ### Well-formedness: one ill-formed term for each check (R74, R77) -/

theorem test_wf_long : (Instr.long 0x41#8 0x41#8 0x01#8 0x2C#8).wellFormed = true := by decide
theorem test_wf_long_refused : (Instr.long 0x41#8 0x42#8 0x01#8 0x2C#8).wellFormed = false := by decide
theorem test_wf_trunc0_refused : (Instr.trunc0 0x41#8 0x40#8).wellFormed = false := by decide
theorem test_wf_trunc1_refused : (Instr.trunc1 0x00#8 0x80#8 0x00#8).wellFormed = false := by decide

/-! ### Decoding: words written out from R70, R71, R73, R74 and R77 -/

/-- R71: `xx1` is RESET. -/
theorem test_decode_reset :
    decodeCtl 0b001#3 = .reset 0#2 ∧ decodeCtl 0b011#3 = .reset 1#2 ∧ decodeCtl 0b101#3 = .reset 2#2 ∧
      decodeCtl 0b111#3 = .reset 3#2 := by decide
/-- R71: `010` and `110`. -/
theorem test_decode_start : decodeCtl 0b010#3 = .startEnc ∧ decodeCtl 0b110#3 = .startDec := by decide
/-- R71: `000` and `100`. -/
theorem test_decode_nop : decodeCtl 0b000#3 = .nop 0#1 ∧ decodeCtl 0b100#3 = .nop 1#1 := by decide
/-- R70, `0 dddddddd` with `mode = 0`; P1 line 3. -/
theorem test_decode_enc_byte : decodeTok .enc 0b001000001#9 = .encByte 0x41#8 := by decide
/-- R70, `1 xxxxxxxx` with `mode = 0`. -/
theorem test_decode_enc_end :
    decodeTok .enc 0b100000000#9 = .encEnd 0x00#8 ∧ decodeTok .enc 0b110000001#9 = .encEnd 0x81#8 := by decide
/-- R70, `0 dddddddd` with `mode = 1`. -/
theorem test_decode_dec_byte : decodeTok .dec 0b010000000#9 = .decByte 0x80#8 := by decide
/-- R70, `1 xxxxxxxx` with `mode = 1`. -/
theorem test_decode_dec_end : decodeTok .dec 0b100000000#9 = .decEnd 0x00#8 := by decide
/-- R83: the nine state-dispatched rows of a `BYTE` have the word of their port row. -/
theorem test_encode_byte_rows :
    encode (.encByteEEmpty 0x41#8) = .tok 0b001000001#9 ∧ encode (.encByteExtend 0x41#8) = .tok 0b001000001#9 ∧
      encode (.encByteSplit 0x41#8) = .tok 0b001000001#9 ∧ encode (.encByteNewRun 0x41#8) = .tok 0b001000001#9 ∧
      encode (.decByteDEmpty 0x41#8) = .tok 0b001000001#9 ∧ encode (.decByteLiteral 0x41#8) = .tok 0b001000001#9 ∧
      encode (.decByteMarker 0x41#8) = .tok 0b001000001#9 ∧ encode (.decByteCntHi 0x41#8) = .tok 0b001000001#9 ∧
      encode (.decByteCntLo 0x41#8) = .tok 0b001000001#9 := by decide
/-- R83: the six state-dispatched rows of an `END` have the word of their port row. -/
theorem test_encode_end_rows :
    encode (.encEndEEmpty 0#8) = .tok 0b100000000#9 ∧ encode (.encEndERun 0#8) = .tok 0b100000000#9 ∧
      encode (.decEndDEmpty 0#8) = .tok 0b100000000#9 ∧ encode (.decEndDHave1 0#8) = .tok 0b100000000#9 ∧
      encode (.decEndDCntHi 0#8) = .tok 0b100000000#9 ∧ encode (.decEndDCntLo 0#8) = .tok 0b100000000#9 := by decide
/-- R72: OUT is the sink's take. -/
theorem test_decode_out : decode .enc .take [] = .ok (.out, []) := rfl
/-- R73: a byte before a different byte, and before `End`. -/
theorem test_decode_lit :
    decodeUnit [0x005#9, 0x006#9, 0x100#9] = .ok (.lit 0x05#8, [0x006#9, 0x100#9]) ∧
      decodeUnit [0x005#9, 0x100#9] = .ok (.lit 0x05#8, [0x100#9]) := ⟨rfl, rfl⟩
/-- R74, DEC-6 and DEC-15: the count bytes, and a fifth equal byte that starts the next unit. -/
theorem test_decode_long :
    decodeUnit [0x041#9, 0x041#9, 0x001#9, 0x02C#9, 0x100#9] =
        .ok (.long 0x41#8 0x41#8 0x01#8 0x2C#8, [0x100#9]) ∧
      decodeUnit [0x041#9, 0x041#9, 0x041#9, 0x041#9, 0x041#9, 0x100#9] =
        .ok (.long 0x41#8 0x41#8 0x41#8 0x41#8, [0x041#9, 0x100#9]) := ⟨rfl, rfl⟩
/-- R74: `V` in bits 31:24 and 23:16, `C_hi` in 15:8, `C_lo` in 7:0, bit by bit; SRC-3 as a word; and a word whose bits
23:16 differ from bits 31:24. -/
theorem test_decode_long_word :
    decodeLongWord 0b01000001_01000001_00000001_00101100#32 = .ok (.long 0x41#8 0x41#8 0x01#8 0x2C#8) ∧
      longWord 0x41#8 0x41#8 0x01#8 0x2C#8 = 0x4141012C#32 ∧
      longBytes 0x4141012C#32 = [0x41#8, 0x41#8, 0x01#8, 0x2C#8] ∧
      decodeLongWord 0x2C014141#32 = .error .noMarker := ⟨rfl, rfl, rfl, rfl⟩
/-- R77, DEC-17. -/
theorem test_decode_trunc0 : decodeUnit [0x041#9, 0x041#9, 0x100#9] = .ok (.trunc0 0x41#8 0x41#8, []) := rfl
/-- R77, DEC-18. -/
theorem test_decode_trunc1 :
    decodeUnit [0x041#9, 0x041#9, 0x000#9, 0x100#9] = .ok (.trunc1 0x41#8 0x41#8 0x00#8, []) := rfl
/-- R75, R76: what is no unit is rejected by name. -/
theorem test_decode_rejects :
    decodeUnit [] = .error .emptyStream ∧ decodeUnit [0x100#9] = .error .endAtBoundary ∧
      decodeUnit [0x041#9] = .error .undecided ∧ decodeUnit [0x041#9, 0x041#9, 0x001#9] = .error .undecided :=
  ⟨rfl, rfl, rfl, rfl⟩

/-! ### The table's rows through `decodeTableWord` and `withFetchWord` (log 10) -/

theorem test_table_control_rows :
    decodeTableWord 8 0b001 = some (.reset 0#2) ∧ decodeTableWord 8 0b010 = some .startEnc ∧
      decodeTableWord 8 0b110 = some .startDec ∧ decodeTableWord 8 0b000 = some (.nop 0#1) := by decide
theorem test_table_token_rows :
    decodeTableWord 16 0x041 = some (.encByte 0x41#8) ∧ decodeTableWord 16 0x100 = some (.encEnd 0x00#8) := by decide
theorem test_table_unit_rows :
    decodeTableWord 8 0x41 = some (.lit 0x41#8) ∧
      decodeTableWord 32 0x4141012C = some (.long 0x41#8 0x41#8 0x01#8 0x2C#8) ∧
      decodeTableWord 16 0x4141 = some (.trunc0 0x41#8 0x41#8) ∧
      decodeTableWord 24 0x414102 = some (.trunc1 0x41#8 0x41#8 0x02#8) := by decide
/-- START DEC placed at reset runs as the first instruction. -/
theorem test_place_start : ∃ t, step (State.reset.withFetchWord 8 0b110) = .next t ∧ t.st = .dEmpty :=
  ⟨_, rfl, rfl⟩
/-- A byte placed at reset runs as the first instruction. -/
theorem test_place_byte : ∃ t, step (State.reset.withFetchWord 16 0x041) = .next t ∧ t.st = .eRun ∧ t.runVal = 0x41#8 :=
  ⟨_, rfl, rfl, rfl⟩
/-- A long-form unit placed at reset runs as the first instruction. -/
theorem test_place_long :
    ∃ t, step (State.reset.withFetchWord 32 0x4141012C) = .next t ∧ t.repVal = 0x41#8 ∧ t.repCnt = 300#16 :=
  ⟨_, rfl, rfl, rfl⟩

/-! ### Control (CT-1 to CT-7) -/

/-- CT-1, CT-7. -/
theorem test_reset : ∃ t, exec (.reset 0#2) (decState .dCntLo 0x41#8 0x01#8) = .next t ∧ t.st = .idle ∧
    t.status = 0x0000#16 := ⟨_, rfl, by decide⟩
/-- R200: mid-job, with output pending. -/
theorem test_reset_pending :
    exec (.reset 3#2) { encState .eRun 0x42#8 1#16 with obuf := .one 0x41#8 } = .next State.reset := rfl
/-- CT-2. -/
theorem test_start_enc : ∃ t, exec .startEnc State.reset = .next t ∧ t.st = .eEmpty ∧ t.status = 0x1021#16 :=
  ⟨_, rfl, by decide⟩
/-- CT-6. -/
theorem test_start_enc_after_error : errorState.status = 0x0598#16 ∧
    ∃ t, exec .startEnc errorState = .next t ∧ t.pend = 0x00#8 ∧ t.status = 0x1021#16 :=
  ⟨by decide, _, rfl, by decide⟩
/-- CT-3. -/
theorem test_start_dec : ∃ t, exec .startDec State.reset = .next t ∧ t.st = .dEmpty ∧ t.status = 0x1033#16 :=
  ⟨_, rfl, by decide⟩
/-- CT-4. -/
theorem test_start_dec_busy :
    ({ encState .eRun 0x42#8 1#16 with obuf := .one 0x41#8 } : State).status = 0x0822#16 ∧
      exec .startDec { encState .eRun 0x42#8 1#16 with obuf := .one 0x41#8 } =
        .next { encState .eRun 0x42#8 1#16 with obuf := .one 0x41#8 } := ⟨by decide, rfl⟩
/-- R71: NOP is no step. -/
theorem test_nop : exec (.nop 1#1) errorState = .next errorState := rfl

/-! ### The encoder (ES-1 to ES-7) -/

/-- ES-1. -/
theorem test_enc_byte_first : ∃ t, exec (.encByteEEmpty 0x00#8) (encState .eEmpty 0#8 0#16) = .next t ∧ t.st = .eRun ∧
    t.runVal = 0x00#8 ∧ t.runCnt = 1#16 ∧ t.inCount = 1#32 := ⟨_, rfl, by decide⟩
/-- P1, line 3. -/
theorem test_enc_byte : ∃ t, exec (.encByte 0x01#8) (encState .eEmpty 0#8 0#16) = .next t ∧ t.status = 0x1022#16 :=
  ⟨_, rfl, by decide⟩
/-- ES-2. -/
theorem test_enc_byte_extend : ∃ t, exec (.encByteExtend 0x41#8) (encState .eRun 0x41#8 65534#16) = .next t ∧
    t.runCnt = 65535#16 ∧ t.obuf = .empty := ⟨_, rfl, by decide⟩
/-- ES-3. -/
theorem test_enc_byte_split : ∃ t, exec (.encByteSplit 0x41#8) (encState .eRun 0x41#8 65535#16) = .next t ∧
    t.runCnt = 1#16 ∧ t.obuf.toList = [0x41#8, 0x41#8, 0xFF#8, 0xFF#8] ∧ t.status = 0x0822#16 := ⟨_, rfl, by decide⟩
/-- ES-4. -/
theorem test_enc_byte_new_run_at_cap : ∃ t, exec (.encByteNewRun 0x42#8) (encState .eRun 0x41#8 65535#16) = .next t ∧
    t.runVal = 0x42#8 ∧ t.runCnt = 1#16 ∧ t.obuf.toList = [0x41#8, 0x41#8, 0xFF#8, 0xFF#8] := ⟨_, rfl, by decide⟩
/-- ES-5. -/
theorem test_enc_byte_new_run : ∃ t, exec (.encByteNewRun 0x42#8) (encState .eRun 0x41#8 1#16) = .next t ∧
    t.runVal = 0x42#8 ∧ t.obuf.toList = [0x41#8] := ⟨_, rfl, by decide⟩
/-- ES-7. -/
theorem test_enc_byte_held : exec (.encByte 0x41#8) { encState .eRun 0x41#8 1#16 with obuf := .one 0x41#8 } =
    .next { encState .eRun 0x41#8 1#16 with obuf := .one 0x41#8 } := rfl
/-- ENC-1. -/
theorem test_enc_end_empty : ∃ t, exec (.encEndEEmpty 0#8) (encState .eEmpty 0#8 0#16) = .next t ∧ t.status = 0x0047#16 :=
  ⟨_, rfl, by decide⟩
/-- ES-6, and the data bits of an `End` word. -/
theorem test_enc_end_run : ∃ t, exec (.encEndERun 0xFF#8) (encState .eRun 0x41#8 1#16) = .next t ∧ t.st = .done ∧
    t.obuf.toList = [0x41#8] ∧ t.inCount = 0#32 := ⟨_, rfl, by decide⟩
/-- P1, line 8. -/
theorem test_enc_end : ∃ t, exec (.encEnd 0x00#8) (encState .eRun 0x02#8 3#16) = .next t ∧
    t.obuf.toList = [0x02#8, 0x02#8, 0x00#8, 0x03#8] ∧ t.status = 0x0827#16 := ⟨_, rfl, by decide⟩

/-! ### The decoder (DS-1 to DS-10) -/

/-- DS-1. -/
theorem test_dec_byte_first : ∃ t, exec (.decByteDEmpty 0x41#8) (decState .dEmpty 0#8 0#8) = .next t ∧ t.st = .dHave1 ∧
    t.pend = 0x41#8 ∧ t.repCnt = 0#16 := ⟨_, rfl, by decide⟩
/-- DS-2. -/
theorem test_dec_byte_literal : ∃ t, exec (.decByteLiteral 0x42#8) (decState .dHave1 0x41#8 0#8) = .next t ∧
    t.st = .dHave1 ∧ t.pend = 0x42#8 ∧ t.repVal = 0x41#8 ∧ t.repCnt = 1#16 := ⟨_, rfl, by decide⟩
/-- DS-3. -/
theorem test_dec_byte_marker : ∃ t, exec (.decByteMarker 0x41#8) (decState .dHave1 0x41#8 0#8) = .next t ∧
    t.st = .dCntHi ∧ t.pend = 0x41#8 ∧ t.repCnt = 0#16 := ⟨_, rfl, by decide⟩
/-- DS-4. -/
theorem test_dec_byte_cnthi : ∃ t, exec (.decByteCntHi 0x41#8) (decState .dCntHi 0x41#8 0#8) = .next t ∧
    t.st = .dCntLo ∧ t.chi = 0x41#8 := ⟨_, rfl, by decide⟩
/-- The example of R135: `C_hi` stands above `C_lo`. -/
theorem test_dec_byte_cntlo : ∃ t, exec (.decByteCntLo 0x2C#8) (decState .dCntLo 0x41#8 0x01#8) = .next t ∧
    t.st = .dEmpty ∧ t.repVal = 0x41#8 ∧ t.repCnt = 300#16 ∧ t.inReady = false := ⟨_, rfl, by decide⟩
/-- DS-6. -/
theorem test_dec_byte_cntlo_zero : ∃ t, exec (.decByteCntLo 0x00#8) (decState .dCntLo 0x41#8 0x00#8) = .next t ∧
    t.st = .dEmpty ∧ t.repCnt = 0#16 ∧ t.inReady = true := ⟨_, rfl, by decide⟩
/-- DS-5. -/
theorem test_dec_byte : ∃ t, exec (.decByte 0xFF#8) (decState .dCntLo 0x41#8 0xFF#8) = .next t ∧
    t.st = .dEmpty ∧ t.chi = 0xFF#8 ∧ t.repCnt = 65535#16 := ⟨_, rfl, by decide⟩
/-- DS-10. -/
theorem test_dec_byte_held :
    exec (.decByte 0x41#8) { decState .dEmpty 0#8 0#8 with repVal := 0x41#8, repCnt := 5#16 } =
      .next { decState .dEmpty 0#8 0#8 with repVal := 0x41#8, repCnt := 5#16 } := rfl
/-- DEC-1. -/
theorem test_dec_end_empty : ∃ t, exec (.decEndDEmpty 0#8) (decState .dEmpty 0#8 0#8) = .next t ∧ t.status = 0x0057#16 :=
  ⟨_, rfl, by decide⟩
/-- DS-7; P5, line 11. -/
theorem test_dec_end_flush : ∃ t, exec (.decEndDHave1 0#8) (decState .dHave1 0x41#8 0#8) = .next t ∧ t.st = .done ∧
    t.repVal = 0x41#8 ∧ t.repCnt = 1#16 ∧ t.status = 0x0837#16 := ⟨_, rfl, by decide⟩
/-- DS-8, DEC-17. -/
theorem test_dec_end_cnthi : ∃ t, exec (.decEndDCntHi 0#8) (decState .dCntHi 0x41#8 0#8) = .next t ∧
    t.errCode = .truncated ∧ t.pend = 0x41#8 ∧ t.status = 0x0198#16 := ⟨_, rfl, by decide⟩
/-- DS-9, DEC-18. -/
theorem test_dec_end_cntlo : ∃ t, exec (.decEndDCntLo 0#8) (decState .dCntLo 0x41#8 0x00#8) = .next t ∧
    t.errCode = .truncated ∧ t.status = 0x0598#16 := ⟨_, rfl, by decide⟩
/-- P3, line 8. -/
theorem test_dec_end : ∃ t, exec (.decEnd 0x00#8) (decState .dCntLo 0x41#8 0x00#8) = .next t ∧ t.st = .error ∧
    t.errInfo = 1#1 := ⟨_, rfl, by decide⟩

/-! ### The output stage (OS-1 to OS-4), and what does not depend on `End` -/

/-- OS-1. -/
theorem test_out_queue : ∃ t,
    exec .out { encState .eRun 0x42#8 1#16 with obuf := .four 0x41#8 0x41#8 0x00#8 0x02#8 } = .next t ∧
      t.sink = [0x41#8] ∧ t.obuf.toList = [0x41#8, 0x00#8, 0x02#8] ∧ t.outCount = 1#32 := ⟨_, rfl, by decide⟩
/-- OS-3. -/
theorem test_out_repeat : ∃ t, exec .out { decState .dEmpty 0#8 0#8 with repVal := 0x09#8, repCnt := 1#16 } = .next t ∧
    t.sink = [0x09#8] ∧ t.repVal = 0x09#8 ∧ t.repCnt = 0#16 ∧ t.inReady = true := ⟨_, rfl, by decide⟩

/-! ### Wire units (R73, R74, R77) at a unit boundary -/

/-- R131, and R132 on the next unit's first byte. -/
theorem test_lit : ∃ t, exec (.lit 0x05#8) (decState .dEmpty 0#8 0#8) = .next t ∧ t.st = .dHave1 ∧ t.pend = 0x05#8 ∧
    t.repCnt = 0#16 := ⟨_, rfl, by decide⟩
/-- DEC-14: count bytes equal to the value, 0x4141 = 16705. -/
theorem test_long : ∃ t, exec (.long 0x41#8 0x41#8 0x41#8 0x41#8) (decState .dEmpty 0#8 0#8) = .next t ∧
    t.st = .dEmpty ∧ t.repVal = 0x41#8 ∧ t.repCnt = 16705#16 ∧ t.inCount = 4#32 := ⟨_, rfl, by decide⟩
/-- DEC-17. -/
theorem test_trunc0 : ∃ t, exec (.trunc0 0x41#8 0x41#8) (decState .dEmpty 0#8 0#8) = .next t ∧ t.status = 0x0198#16 ∧
    t.inCount = 2#32 := ⟨_, rfl, by decide⟩
/-- DEC-18. -/
theorem test_trunc1 : ∃ t, exec (.trunc1 0x41#8 0x41#8 0x00#8) (decState .dEmpty 0#8 0#8) = .next t ∧
    t.status = 0x0598#16 ∧ t.inCount = 3#32 := ⟨_, rfl, by decide⟩

/-- R6: the counters' width. -/
theorem test_counter_width : (State.reset.inCount.toNat < 2 ^ Config.xcntW) ∧ (0xFFFFFFFF#32).toNat + 1 = 2 ^ Config.xcntW := by
  decide

/-! ### The framer and the closed forms (FR-1 to FR-8, SRC-2 to SRC-6, DEC-9, DEC-19) -/

theorem test_frame :
    frame 0x41#8 1#16 = some (.one 0x41#8) ∧ frame 0x41#8 2#16 = some (.four 0x41#8 0x41#8 0x00#8 0x02#8) ∧
      frame 0x00#8 255#16 = some (.four 0x00#8 0x00#8 0x00#8 0xFF#8) ∧
      frame 0x41#8 256#16 = some (.four 0x41#8 0x41#8 0x01#8 0x00#8) ∧
      frame 0xFF#8 65535#16 = some (.four 0xFF#8 0xFF#8 0xFF#8 0xFF#8) ∧ frame 0x41#8 0#16 = none := by decide
/-- SRC-4. -/
theorem test_compress :
    compress [0x01#8, 0x02#8, 0x02#8, 0x02#8] = [0x01#8, 0x02#8, 0x02#8, 0x00#8, 0x03#8] := by decide
/-- SRC-5, DEC-9. -/
theorem test_decompress :
    decompress [0x01#8, 0x02#8, 0x02#8, 0x00#8, 0x03#8] = [0x01#8, 0x02#8, 0x02#8, 0x02#8] ∧
      decompress [0x41#8, 0x41#8, 0x00#8, 0x02#8, 0x42#8] = [0x41#8, 0x41#8, 0x42#8] := by decide
/-- SRC-6, DEC-17, DEC-19. -/
theorem test_truncation :
    truncation [0x05#8, 0x05#8, 0x00#8, 0x00#8] = none ∧ truncation [0x41#8, 0x41#8] = some 0#1 ∧
      truncation [0x07#8, 0x41#8, 0x41#8, 0x00#8] = some 1#1 ∧ decompress [0x07#8, 0x41#8, 0x41#8, 0x00#8] = [0x07#8] := by
  decide

/-! ### Witnesses: for every statement with hypotheses, a state and operands that meet all of them, clause by clause -/

theorem witness_DecodingUndoesEncoding_lit :
    (Instr.lit 0x05#8).wellFormed = true ∧ (∀ k, (Instr.lit 0x05#8).rowMode = some k → Mode.dec = k) ∧
      lookaheadOk (.lit 0x05#8) [0x006#9] = true ∧ lookaheadOk (.lit 0x05#8) [0x105#9] = true :=
  ⟨rfl, fun _ h => (by cases h), by decide⟩
theorem witness_DecodingUndoesEncoding_long :
    (Instr.long 0xFF#8 0xFF#8 0x00#8 0x00#8).wellFormed = true ∧
      (∀ k, (Instr.long 0xFF#8 0xFF#8 0x00#8 0x00#8).rowMode = some k → Mode.dec = k) ∧
      lookaheadOk (.long 0xFF#8 0xFF#8 0x00#8 0x00#8) [] = true := ⟨by decide, fun _ h => (by cases h), by decide⟩
theorem witness_DecodingUndoesEncoding_row :
    (Instr.encByteSplit 0xFF#8).wellFormed = true ∧
      (∀ k, (Instr.encByteSplit 0xFF#8).rowMode = some k → Mode.enc = k) ∧
      lookaheadOk (.encByteSplit 0xFF#8) [] = true := ⟨rfl, fun _ h => (by cases h; rfl), rfl⟩
theorem witness_EncodingUndoesDecoding :
    decodeUnit [0x041#9, 0x041#9, 0x0FF#9, 0x1FF#9, 0x001#9] = .ok (.trunc1 0x41#8 0x41#8 0xFF#8, [0x001#9]) := rfl
theorem witness_EncodingUndoesDecoding_word :
    decodeLongWord 0xFFFFFFFF#32 = .ok (.long 0xFF#8 0xFF#8 0xFF#8 0xFF#8) := rfl
theorem witness_FirstTwoBytesDecideTheUnit :
    tokenOf 0x042#9 ≠ .byte 0x41#8 ∧ tokenOf 0x141#9 ≠ .byte 0x41#8 := by decide

/-! #### Control -/

theorem witness_StartOpensAJob :
    State.reset.busy = false ∧ errorState.busy = false ∧ (encState .done 0x41#8 1#16).busy = false ∧
      (encState .eEmpty 0#8 0#16).busy = true ∧
      ({ encState .done 0x41#8 1#16 with obuf := .one 0x41#8 } : State).busy = true := by decide

/-! #### The encoder: `run_cnt` at 1, 65534 and 65535 -/

theorem witness_EncByteOpensTheFirstRun :
    (encState .eEmpty 0#8 0#16).inReady = true ∧ (encState .eEmpty 0#8 0#16).mode = .enc ∧
      (encState .eEmpty 0#8 0#16).st = .eEmpty := by decide
theorem witness_EncByteExtendsTheRun :
    (encState .eRun 0x41#8 65534#16).inReady = true ∧ (encState .eRun 0x41#8 65534#16).mode = .enc ∧
      (encState .eRun 0x41#8 65534#16).st = .eRun ∧ 0x41#8 = (encState .eRun 0x41#8 65534#16).runVal ∧
      (encState .eRun 0x41#8 65534#16).runCnt.toNat < 65535 := by decide
theorem witness_EncByteSplitsAtTheCap :
    (encState .eRun 0x41#8 65535#16).inReady = true ∧ (encState .eRun 0x41#8 65535#16).mode = .enc ∧
      (encState .eRun 0x41#8 65535#16).st = .eRun ∧ 0x41#8 = (encState .eRun 0x41#8 65535#16).runVal ∧
      (encState .eRun 0x41#8 65535#16).runCnt.toNat = 65535 := by decide
theorem witness_EncByteClosesTheRun :
    (encState .eRun 0x41#8 1#16).inReady = true ∧ (encState .eRun 0x41#8 1#16).mode = .enc ∧
      (encState .eRun 0x41#8 1#16).st = .eRun ∧ 0x42#8 ≠ (encState .eRun 0x41#8 1#16).runVal ∧
      (encState .eRun 0x41#8 1#16).runCnt ≠ 0#16 := by decide
theorem witness_EncEndClosesTheRun :
    (encState .eRun 0x41#8 65535#16).inReady = true ∧ (encState .eRun 0x41#8 65535#16).mode = .enc ∧
      (encState .eRun 0x41#8 65535#16).st = .eRun ∧ (encState .eRun 0x41#8 65535#16).runCnt ≠ 0#16 := by decide
/-- The hypotheses of EncEndOfTheEmptyStream are those of EncByteOpensTheFirstRun. -/
theorem witness_EncEndOfTheEmptyStream :
    (encState .eEmpty 0#8 0#16).inReady = true ∧ (encState .eEmpty 0#8 0#16).mode = .enc ∧
      (encState .eEmpty 0#8 0#16).st = .eEmpty := by decide

/-! #### The decoder -/

/-- For DecByteRefillsTheLookahead, DecEndAtAUnitBoundary, and the statements about wire units. -/
theorem witness_dEmpty :
    (decState .dEmpty 0#8 0#8).inReady = true ∧ (decState .dEmpty 0#8 0#8).mode = .dec ∧
      (decState .dEmpty 0#8 0#8).st = .dEmpty ∧ 0x06#8 ≠ 0x05#8 := by decide
/-- For the clauses of LongFormStandsForItsRun about a 32-bit word: count 0, a count that holds `V`, and no marker. -/
theorem witness_LongFormStandsForItsRun :
    (0x41410000#32).extractLsb' 16 8 = (0x41410000#32).extractLsb' 24 8 ∧
      (0x41414141#32).extractLsb' 16 8 = (0x41414141#32).extractLsb' 24 8 ∧
      (0x41420000#32).extractLsb' 16 8 ≠ (0x41420000#32).extractLsb' 24 8 := by decide
/-- For DecByteFindsALiteral, DecByteFindsTheMarker and DecEndFlushesThePendingByte. -/
theorem witness_dHave1 :
    (decState .dHave1 0x41#8 0#8).inReady = true ∧ (decState .dHave1 0x41#8 0#8).mode = .dec ∧
      (decState .dHave1 0x41#8 0#8).st = .dHave1 ∧ 0x42#8 ≠ (decState .dHave1 0x41#8 0#8).pend ∧
      0x41#8 = (decState .dHave1 0x41#8 0#8).pend := by decide
/-- For DecByteTakesTheHighCount and DecEndAfterTheMarkerRaises. -/
theorem witness_dCntHi :
    (decState .dCntHi 0x41#8 0#8).inReady = true ∧ (decState .dCntHi 0x41#8 0#8).mode = .dec ∧
      (decState .dCntHi 0x41#8 0#8).st = .dCntHi := by decide
/-- For DecByteExpandsTheUnit, with count 0 and not 0, and DecEndAfterTheHighCountRaises. -/
theorem witness_dCntLo :
    (decState .dCntLo 0x41#8 0#8).inReady = true ∧ (decState .dCntLo 0x41#8 0#8).mode = .dec ∧
      (decState .dCntLo 0x41#8 0#8).st = .dCntLo ∧ (decState .dCntLo 0x41#8 0#8).chi ++ 0x00#8 = 0#16 ∧
      (decState .dCntLo 0x41#8 0#8).chi ++ 0x01#8 ≠ 0#16 := by decide

/-! #### The output stage and the steps that are not enabled -/

theorem witness_FrameBuildsTheUnit : 1#16 ≠ 0#16 ∧ 65535#16 ≠ 0#16 := by decide
theorem witness_OutEmitsOneByte :
    ({ encState .done 0x41#8 1#16 with obuf := .one 0x41#8 } : State).outValid = true ∧
      ({ encState .done 0x41#8 1#16 with obuf := .one 0x41#8 } : State).obuf.toList = 0x41#8 :: [] ∧
      ({ decState .dEmpty 0#8 0#8 with repCnt := 1#16 } : State).outValid = true ∧
      ({ decState .dEmpty 0#8 0#8 with repCnt := 1#16 } : State).obuf.toList = [] := by decide
theorem witness_WhatIsNotEnabledChangesNothing :
    (Instr.encByte 0x41#8).token.isSome = true ∧ State.reset.inReady = false ∧
      (unitTokens (.lit 0x41#8)).isEmpty = false ∧ State.reset.st.active = false ∧ State.reset.outValid = false := by
  decide
theorem witness_WireUnitIsItsTokensOneByOne :
    (decState .dEmpty 0#8 0#8).st.active = true ∧ errorState.st.active = false := by decide
theorem witness_TokenRowsAgreeWithTheDispatch :
    (Instr.encByteSplit 0x41#8).token = some (.byte 0x41#8) ∧ (Instr.decEndDCntLo 0xFF#8).token = some .eos := by decide
theorem witness_IllegalStatesStopByName :
    ({ decState .dHave1 0x41#8 0#8 with mode := .enc } : State).inReady = true ∧
      ({ decState .dHave1 0x41#8 0#8 with mode := .enc } : State).st.decoding = true ∧
      ({ encState .eRun 0x41#8 1#16 with mode := .dec } : State).inReady = true ∧
      ({ encState .eRun 0x41#8 1#16 with mode := .dec } : State).st.encoding = true ∧
      (encState .eRun 0x41#8 0#16).inReady = true ∧ (encState .eRun 0x41#8 0#16).runCnt = 0#16 := by decide

/-! #### Frames, counters, signals -/

theorem witness_TokensKeepTheRest_enc :
    (encState .eRun 0x41#8 1#16).mode = .enc ∧ (Instr.encEnd 0#8).token = some .eos ∧
      ∃ t, exec (.encEnd 0#8) (encState .eRun 0x41#8 1#16) = .next t := ⟨by decide, by decide, _, rfl⟩
theorem witness_TokensKeepTheRest_dec :
    (decState .dCntLo 0x41#8 0#8).mode = .dec ∧ (Instr.decByte 0x02#8).token = some (.byte 0x02#8) ∧
      ∃ t, exec (.decByte 0x02#8) (decState .dCntLo 0x41#8 0#8) = .next t := ⟨by decide, by decide, _, rfl⟩
theorem witness_CountersCountBytes :
    (∃ t, exec (.encByte 0x41#8) { encState .eEmpty 0#8 0#16 with inCount := 0xFFFFFFFF#32 } = .next t ∧
      t.inCount = 0#32) ∧
    (∃ t, exec (.decEnd 0#8) (decState .dHave1 0x41#8 0#8) = .next t) ∧
    ∃ t, exec .out { decState .dEmpty 0#8 0#8 with repCnt := 1#16, outCount := 0xFFFFFFFF#32 } = .next t ∧
      t.outCount = 0#32 := ⟨⟨_, rfl, by decide⟩, ⟨_, rfl⟩, _, rfl, by decide⟩
theorem witness_OneOfInAndOutIsEnabled :
    (decState .dEmpty 0#8 0#8).busy = true ∧ (encState .done 0x41#8 1#16).busy = false := by decide

/-! #### A step -/

theorem witness_StepRunsTheDecodedInstruction :
    ({ State.reset with agenda := [.ctl 0b010#3] } : State).agenda = .ctl 0b010#3 :: [] ∧
      ({ State.reset with agenda := [.tok], source := [0x041#9] } : State).source = 0x041#9 :: [] ∧
      ({ State.reset with agenda := [.tok] } : State).source = [] ∧
      ({ State.reset with agenda := [.out] } : State).agenda = .out :: [] ∧ State.reset.agenda = [] ∧
      ({ State.reset with agenda := [.unit], source := [0x041#9, 0x100#9] } : State).agenda = .unit :: [] := by decide
theorem witness_StepRunsTheDecodedInstruction_unit :
    decodeUnit ({ State.reset with agenda := [.unit], source := [0x041#9, 0x100#9] } : State).source =
        .ok (.lit 0x41#8, [0x100#9]) ∧
      decodeUnit ({ State.reset with agenda := [.unit], source := [0x100#9] } : State).source =
        .error .endAtBoundary := ⟨rfl, rfl⟩
theorem witness_ResetWinsItsCycle :
    ({ decState .dEmpty 0#8 0#8 with agenda := [.together 0b111#3 true true], source := [0x041#9] } : State).agenda =
      .together 0b111#3 true true :: [] ∧ (0b111#3 : ControlWord).getLsbD 0 = true := by decide
theorem witness_OneEventInACycle :
    ({ State.reset with agenda := [.together 0b010#3 true true] } : State).agenda =
        .together 0b010#3 true true :: [] ∧
      (0b010#3 : ControlWord).getLsbD 0 = false ∧ (0b010#3 : ControlWord).getLsbD 1 = true ∧
      State.reset.busy = false ∧ (decState .dEmpty 0#8 0#8).inReady = true ∧
      ({ decState .dEmpty 0#8 0#8 with repCnt := 1#16 } : State).outValid = true ∧
      (encState .eRun 0x41#8 1#16).busy = true ∧
      ((encState .eRun 0x41#8 1#16).inReady = true → false = false) ∧
      ((encState .eRun 0x41#8 1#16).outValid = true → true = false) := by decide
theorem witness_PlacedWordRunsNext :
    (encState .eRun 0x41#8 1#16).inReady = true ∧ (encState .eRun 0x41#8 1#16).mode = .enc ∧
      (decState .dEmpty 0#8 0#8).inReady = true ∧ (decState .dEmpty 0#8 0#8).mode = .dec ∧
      (decState .dEmpty 0#8 0#8).st = .dEmpty := by decide

/-! #### Invariants and whole-machine rules -/

theorem legal_eRun : (encState .eRun 0x41#8 65535#16).Legal := by constructor <;> decide
theorem witness_StepKeepsTheInvariants :
    ({ encState .eRun 0x41#8 65535#16 with agenda := [.tok], source := [0x041#9] } : State).Legal ∧
      ∃ t, step { encState .eRun 0x41#8 65535#16 with agenda := [.tok], source := [0x041#9] } = .next t ∧
        t.obuf.toList = [0x41#8, 0x41#8, 0xFF#8, 0xFF#8] :=
  ⟨by constructor <;> decide, _, rfl, by decide⟩
theorem witness_LegalStatesNeverStop : errorState.Legal := by constructor <;> decide
theorem witness_OutputOnlyGrows :
    ∃ t, step { decState .dEmpty 0#8 0#8 with repVal := 0x09#8, repCnt := 1#16, agenda := [.out] } = .next t ∧
      t.sink = [0x09#8] := ⟨_, rfl, by decide⟩
theorem witness_InputIsConsumedInOrder :
    (∃ t, step { decState .dEmpty 0#8 0#8 with source := [0x041#9, 0x100#9], agenda := [.tok] } = .next t ∧
      t.source = [0x100#9]) ∧ ∃ t, exec .startEnc State.reset = .next t := ⟨⟨_, rfl, by decide⟩, _, rfl⟩
theorem witness_OnlyTruncationRaises :
    (∃ t, exec (.decEnd 0#8) (decState .dCntHi 0x41#8 0#8) = .next t ∧ t.st = .error ∧
      (decState .dCntHi 0x41#8 0#8).st ≠ .error) ∧
    ∃ t, exec (.trunc1 0x41#8 0x41#8 0#8) (decState .dEmpty 0#8 0#8) = .next t ∧ t.st = .error :=
  ⟨⟨_, rfl, by decide⟩, _, rfl, by decide⟩
theorem witness_ErrorIsLeftOnlyByStartOrReset :
    (∃ t, exec .startDec errorState = .next t ∧ errorState.st = .error ∧ t.st ≠ .error) ∧
    ∃ t, exec (.reset 0#2) errorState = .next t ∧ t.st ≠ .error := ⟨⟨_, rfl, by decide⟩, _, rfl, by decide⟩
theorem witness_QuiescentStatesAreKept :
    errorState.busy = false ∧ Instr.encByte 0x41#8 ≠ .startEnc ∧ Instr.encByte 0x41#8 ≠ .startDec ∧
      ∀ x, Instr.encByte 0x41#8 ≠ .reset x := by decide
theorem witness_ModeChangesOnlyByStartOrReset :
    (∃ t, exec .startDec State.reset = .next t ∧ t.mode ≠ State.reset.mode) ∧
    ∃ t, exec (.reset 0#2) (decState .dCntLo 0x41#8 0#8) = .next t ∧ t.mode ≠ (decState .dCntLo 0x41#8 0#8).mode :=
  ⟨⟨_, rfl, by decide⟩, _, rfl, by decide⟩
theorem witness_ModesShareNoState :
    (Instr.encByte 0x41#8).token.isSome = true ∧ (encState .eRun 0x41#8 1#16).mode = .enc ∧
      (encState .eRun 0x41#8 1#16).repCnt = 0#16 ∧ (decState .dCntLo 0x41#8 0#8).mode = .dec := by decide
theorem witness_ScheduleDoesNotMatter :
    (∀ m ∈ ({ encState .eRun 0x41#8 1#16 with agenda := [.tok, .out], source := [0x100#9] } : State).agenda.take 2,
      m = .tok ∨ m = .out) ∧
    ∃ t, Sys2Proof.core.run 2 { encState .eRun 0x41#8 1#16 with agenda := [.tok, .out], source := [0x100#9] } =
      .next t ∧ t.busy = false := ⟨by decide, _, rfl, by decide⟩
theorem witness_FairSlotsEndTheJob :
    ({ encState .eRun 0x41#8 1#16 with
        source := [0x100#9], agenda := (List.replicate 65536 [HostMove.tok, HostMove.out]).flatten ++ [] } : State).Legal ∧
      Token.eos ∈ [0x100#9].map tokenOf ∧
      65536 * [0x100#9].length + (encState .eRun 0x41#8 1#16).pendingOut ≤ 65536 :=
  ⟨by constructor <;> decide, by decide, by decide⟩

/-! #### Whole jobs -/

/-- For the statements about whole jobs, and `n = 1` for SizeBounds. -/
theorem witness_jobs :
    State.reset.busy = false ∧ errorState.busy = false ∧ [0x01#8, 0x02#8, 0x01#8].IsChain (· ≠ ·) := by
  refine ⟨by decide, by decide, ?_⟩
  simp

end Sys2Proof.Tests
end

section
/-! What a slot presents, and what a step does with it: `fetch` once per kind of slot, `step` once per answer of `fetch`
(R8, R41). -/

namespace Sys2Proof.Machine

/-! ### What a slot presents -/

theorem fetchToken_of_source_nil {s : State} (h : s.source = []) : fetchToken s = none := by
  simp only [fetchToken, h]

theorem fetchToken_of_source_cons {s : State} {w : TokenWord} {ws : List TokenWord} (h : s.source = w :: ws) :
    fetchToken s = some (decodeTok s.mode w) := by
  simp only [fetchToken, h]

@[simp] theorem fetch_ctl (w : ControlWord) (s : State) : fetch (.ctl w) s = some (decodeCtl w) := rfl

@[simp] theorem fetch_tok (s : State) : fetch .tok s = fetchToken s := rfl

@[simp] theorem fetch_out (s : State) : fetch .out s = some .out := rfl

theorem fetch_unit_of_ok {s : State} {i : Instr} {rest : List TokenWord} (h : decodeUnit s.source = .ok (i, rest)) :
    fetch .unit s = some i := by
  simp only [fetch, h]

theorem fetch_unit_of_error {s : State} {r : Reject} (h : decodeUnit s.source = .error r) : fetch .unit s = none := by
  simp only [fetch, h]

/-! ### What a step does with it -/

theorem step_of_agenda_nil {s : State} (h : s.agenda = []) : step s = .next s := by
  simp only [step, h]

theorem step_of_fetch_some {s : State} {m : HostMove} {more : List HostMove} {i : Instr} (ha : s.agenda = m :: more)
    (hf : fetch m (s.setAgenda more) = some i) : step s = exec i (s.setAgenda more) := by
  simp only [step, ha, hf]

theorem step_of_fetch_none {s : State} {m : HostMove} {more : List HostMove} (ha : s.agenda = m :: more)
    (hf : fetch m (s.setAgenda more) = none) : step s = .next (s.setAgenda more) := by
  simp only [step, ha, hf]

/-- Settles O38: for each kind of slot, `step` is what the equation of `fetch` for that slot makes it. Using a slot up
touches neither `mode` nor `source`, so the token and the unit decoded are those of the state before. -/
theorem stepRunsTheDecodedInstruction : Obligations.StepRunsTheDecodedInstruction := by
  intro s more
  refine ⟨?ctl, ?tok, ?tokNothing, ?out, ?unit, ?unitNothing, step_of_agenda_nil⟩
  case ctl => exact fun w ha => step_of_fetch_some ha (fetch_ctl w _)
  case tok => exact fun w ws ha hw => step_of_fetch_some ha ((fetch_tok _).trans (fetchToken_of_source_cons hw))
  case tokNothing => exact fun ha hw => step_of_fetch_none ha ((fetch_tok _).trans (fetchToken_of_source_nil hw))
  case out => exact fun ha => step_of_fetch_some ha (fetch_out _)
  case unit => exact fun i rest ha hu => step_of_fetch_some ha (fetch_unit_of_ok hu)
  case unitNothing => exact fun r ha hu => step_of_fetch_none ha (fetch_unit_of_error hu)

end Sys2Proof.Machine
end

section
/-! The rows: each rule of R100 and R130 as an equation of the dispatch, the rows of the table against the dispatch, and
what any instruction does, said once (R8, R100, R130). -/

namespace Sys2Proof.Machine

variable {s : State} {b : Byte}

/-! ### The dispatch of R100, a rule at a time -/

theorem encAccept_byte_eEmpty (h : s.st = .eEmpty) : encAccept (.byte b) s = .next (encOpenRun b s) := by
  simp only [encAccept, h]

theorem encAccept_byte_extend (h : s.st = .eRun) (hb : b = s.runVal) (hc : s.runCnt < Config.maxCount) :
    encAccept (.byte b) s = .next (encExtend s) := by
  simp only [encAccept, h, if_pos hb, if_pos hc]

theorem encAccept_byte_split (h : s.st = .eRun) (hb : b = s.runVal) (hc : ¬ s.runCnt < Config.maxCount) :
    encAccept (.byte b) s = encSplit s := by
  simp only [encAccept, h, if_pos hb, if_neg hc]

theorem encAccept_byte_newRun (h : s.st = .eRun) (hb : b ≠ s.runVal) : encAccept (.byte b) s = encNewRun b s := by
  simp only [encAccept, h, if_neg hb]

theorem encAccept_eos_eEmpty (h : s.st = .eEmpty) : encAccept .eos s = .next (encFinishEmpty s) := by
  simp only [encAccept, h]

theorem encAccept_eos_eRun (h : s.st = .eRun) : encAccept .eos s = encFinishRun s := by
  simp only [encAccept, h]

/-- R100 has no row for a control state of the decoder (R40 item 1). -/
theorem encAccept_of_decoding (t : Token) (h : s.st.decoding = true) : encAccept t s = .fault .modeStateMismatch := by
  unfold encAccept
  split <;> simp_all [Ctrl.decoding]

/-! ### The dispatch of R130, a rule at a time -/

theorem decAccept_byte_dEmpty (h : s.st = .dEmpty) : decAccept (.byte b) s = .next (decRefill b s) := by
  simp only [decAccept, h]

theorem decAccept_byte_marker (h : s.st = .dHave1) (hb : b = s.pend) :
    decAccept (.byte b) s = .next (decMarker s) := by
  simp only [decAccept, h, if_pos hb]

theorem decAccept_byte_literal (h : s.st = .dHave1) (hb : b ≠ s.pend) :
    decAccept (.byte b) s = .next (decLiteral b s) := by
  simp only [decAccept, h, if_neg hb]

theorem decAccept_byte_dCntHi (h : s.st = .dCntHi) : decAccept (.byte b) s = .next (decCountHi b s) := by
  simp only [decAccept, h]

theorem decAccept_byte_dCntLo (h : s.st = .dCntLo) : decAccept (.byte b) s = .next (decCountLo b s) := by
  simp only [decAccept, h]

theorem decAccept_eos_dEmpty (h : s.st = .dEmpty) : decAccept .eos s = .next (decFinish s) := by
  simp only [decAccept, h]

theorem decAccept_eos_dHave1 (h : s.st = .dHave1) : decAccept .eos s = .next (decFlush s) := by
  simp only [decAccept, h]

theorem decAccept_eos_dCntHi (h : s.st = .dCntHi) : decAccept .eos s = .next (decTruncated0 s) := by
  simp only [decAccept, h]

theorem decAccept_eos_dCntLo (h : s.st = .dCntLo) : decAccept .eos s = .next (decTruncated1 s) := by
  simp only [decAccept, h]

/-- R130 has no row for a control state of the encoder (R40 item 1). -/
theorem decAccept_of_encoding (t : Token) (h : s.st.encoding = true) : decAccept t s = .fault .modeStateMismatch := by
  unfold decAccept
  split <;> simp_all [Ctrl.encoding]

/-! ### The rows of the table -/

/-- Every token row does what the input step does with its token: under the row's constraint the row's rule is the one
the dispatch picks, and elsewhere the row offers its token (log 3). -/
theorem exec_eq_offer (s : State) : ∀ (i : Instr) {t : Token}, i.token = some t → exec i s = offer t s
  | .encByte _, _, rfl | .encEnd _, _, rfl => ite_eq_right_iff.2 fun ⟨hr, hm⟩ => (offer_enc _ hr hm).symm
  | .decByte _, _, rfl | .decEnd _, _, rfl => ite_eq_right_iff.2 fun ⟨hr, hm⟩ => (offer_dec _ hr hm).symm
  | .encByteEEmpty _, _, rfl => ite_eq_right_iff.2 fun ⟨hr, hm, hst⟩ =>
      ((offer_enc _ hr hm).trans (encAccept_byte_eEmpty hst)).symm
  | .encByteExtend _, _, rfl => ite_eq_right_iff.2 fun ⟨hr, hm, hst, hb, hc⟩ =>
      ((offer_enc _ hr hm).trans (encAccept_byte_extend hst hb hc)).symm
  | .encByteSplit _, _, rfl => ite_eq_right_iff.2 fun ⟨hr, hm, hst, hb, hc⟩ =>
      ((offer_enc _ hr hm).trans (encAccept_byte_split hst hb (by simp [hc]))).symm
  | .encByteNewRun _, _, rfl => ite_eq_right_iff.2 fun ⟨hr, hm, hst, hb⟩ =>
      ((offer_enc _ hr hm).trans (encAccept_byte_newRun hst hb)).symm
  | .encEndEEmpty _, _, rfl => ite_eq_right_iff.2 fun ⟨hr, hm, hst⟩ =>
      ((offer_enc _ hr hm).trans (encAccept_eos_eEmpty hst)).symm
  | .encEndERun _, _, rfl => ite_eq_right_iff.2 fun ⟨hr, hm, hst⟩ =>
      ((offer_enc _ hr hm).trans (encAccept_eos_eRun hst)).symm
  | .decByteDEmpty _, _, rfl => ite_eq_right_iff.2 fun ⟨hr, hm, hst⟩ =>
      ((offer_dec _ hr hm).trans (decAccept_byte_dEmpty hst)).symm
  | .decByteLiteral _, _, rfl => ite_eq_right_iff.2 fun ⟨hr, hm, hst, hb⟩ =>
      ((offer_dec _ hr hm).trans (decAccept_byte_literal hst hb)).symm
  | .decByteMarker _, _, rfl => ite_eq_right_iff.2 fun ⟨hr, hm, hst, hb⟩ =>
      ((offer_dec _ hr hm).trans (decAccept_byte_marker hst hb)).symm
  | .decByteCntHi _, _, rfl => ite_eq_right_iff.2 fun ⟨hr, hm, hst⟩ =>
      ((offer_dec _ hr hm).trans (decAccept_byte_dCntHi hst)).symm
  | .decByteCntLo _, _, rfl => ite_eq_right_iff.2 fun ⟨hr, hm, hst⟩ =>
      ((offer_dec _ hr hm).trans (decAccept_byte_dCntLo hst)).symm
  | .decEndDEmpty _, _, rfl => ite_eq_right_iff.2 fun ⟨hr, hm, hst⟩ =>
      ((offer_dec _ hr hm).trans (decAccept_eos_dEmpty hst)).symm
  | .decEndDHave1 _, _, rfl => ite_eq_right_iff.2 fun ⟨hr, hm, hst⟩ =>
      ((offer_dec _ hr hm).trans (decAccept_eos_dHave1 hst)).symm
  | .decEndDCntHi _, _, rfl => ite_eq_right_iff.2 fun ⟨hr, hm, hst⟩ =>
      ((offer_dec _ hr hm).trans (decAccept_eos_dCntHi hst)).symm
  | .decEndDCntLo _, _, rfl => ite_eq_right_iff.2 fun ⟨hr, hm, hst⟩ =>
      ((offer_dec _ hr hm).trans (decAccept_eos_dCntLo hst)).symm

/-- A wire unit is its tokens fed one by one (log 4). -/
theorem exec_eq_feed (s : State) : ∀ {i : Instr}, (unitTokens i).isEmpty = false → exec i s = feed (unitTokens i) s
  | .lit _, _ | .long _ _ _ _, _ | .trunc0 _ _, _ | .trunc1 _ _ _, _ => rfl

/-- What an instruction can be: Reset, a Start, NOP, a token row, OUT, or a wire unit. To prove `P` of what any of them
answers, prove it of what each of these does. -/
theorem exec_induction {P : Result → Prop} {s : State} (reset : P (.next (resetCore s)))
    (start : ∀ m, P (.next (start m s))) (nop : P (.next s)) (offer : ∀ t, P (offer t s)) (out : P (execOut s))
    (feed : ∀ ts, P (feed ts s)) (i : Instr) : P (exec i s) := by
  cases ht : i.token with
  | some t => exact exec_eq_offer s i ht ▸ offer t
  | none =>
    cases i with
    | reset => exact reset
    | startEnc => exact start .enc
    | startDec => exact start .dec
    | nop => exact nop
    | out => exact out
    | lit | long | trunc0 | trunc1 => exact feed _
    | _ => cases ht

end Sys2Proof.Machine
end

section
/-! The invariants of R40, items 1 to 6: how a state that a rule writes is seen to have them, and that from a state that
has them every instruction answers a next state that has them again. -/

namespace Sys2Proof.Machine

variable {s : State}

/-! ### Which states are legal -/

theorem State.Legal.of_enc (hm : s.mode = .enc) (hr : s.repCnt = 0#16) (he : s.errCode = .none)
    (hst : s.st = .eEmpty ∨ s.st = .eRun ∧ s.runCnt ≠ 0#16 ∨ s.st = .done) : s.Legal := by
  rcases hst with hst | ⟨hst, hc⟩ | hst <;> constructor <;> simp [*, Ctrl.decoding]

theorem State.Legal.of_dec (hm : s.mode = .dec) (hq : s.obuf = .empty) (he : s.errCode = .none)
    (hst : s.st = .dEmpty ∨ s.st = .dHave1 ∨ s.st = .dCntHi ∨ s.st = .dCntLo ∨ s.st = .done) : s.Legal := by
  rcases hst with hst | hst | hst | hst | hst <;> constructor <;> simp [*, Ctrl.encoding]

theorem State.Legal.of_truncated (hm : s.mode = .dec) (hv : s.outValid = false) (he : s.errCode = .truncated)
    (hst : s.st = .error) : s.Legal := by
  obtain ⟨hq, hr⟩ := (State.outValid_eq_false_iff s).1 hv
  constructor <;> simp [*, Ctrl.encoding]

/-! ### What a legal state that accepts tokens is -/

theorem Ctrl.eq_of_active_of_not_decoding {c : Ctrl} (ha : c.active = true) (hd : c.decoding = false) :
    c = .eEmpty ∨ c = .eRun := by
  revert ha hd; cases c <;> decide

theorem Ctrl.eq_of_active_of_not_encoding {c : Ctrl} (ha : c.active = true) (hd : c.encoding = false) :
    c = .dEmpty ∨ c = .dHave1 ∨ c = .dCntHi ∨ c = .dCntLo := by
  revert ha hd; cases c <;> decide

theorem State.Legal.errCode_of_active (h : s.Legal) (ha : s.st.active = true) : s.errCode = .none := by
  by_contra he
  simp [h.errIff.1 he, Ctrl.active] at ha

theorem State.Legal.st_of_enc (h : s.Legal) (ha : s.st.active = true) (hm : s.mode = .enc) :
    s.st = .eEmpty ∨ s.st = .eRun ∧ s.runCnt ≠ 0#16 := by
  have hd : s.st.decoding = false := by
    by_contra hd
    simp [h.decMode (by simpa using hd)] at hm
  exact (Ctrl.eq_of_active_of_not_decoding ha hd).imp_right fun hst => ⟨hst, h.runOpen hst⟩

theorem State.Legal.st_of_dec (h : s.Legal) (ha : s.st.active = true) (hm : s.mode = .dec) :
    s.st = .dEmpty ∨ s.st = .dHave1 ∨ s.st = .dCntHi ∨ s.st = .dCntLo := by
  have hd : s.st.encoding = false := by
    by_contra hd
    simp [h.encMode (by simpa using hd)] at hm
  exact Ctrl.eq_of_active_of_not_encoding ha hd

/-! ### Every instruction goes from legal states to legal states -/

/-- The outcome is a next state, and it has the invariants. -/
def EndsLegal (r : Result) : Prop := ∃ t, r = .next t ∧ t.Legal

theorem State.Legal.endsLegal (h : s.Legal) : EndsLegal (.next s) := ⟨s, rfl, h⟩

theorem EndsLegal.andThen {r : Result} {k : State → Result} (h : EndsLegal r)
    (hk : ∀ t : State, t.Legal → EndsLegal (k t)) : EndsLegal (andThen r k) := by
  obtain ⟨t, rfl, ht⟩ := h
  exact hk t ht

theorem endsLegal_withFrame {c : Count} {k : OutQueue → State} (v : Byte) (hc : c ≠ 0#16) (hk : ∀ q, (k q).Legal) :
    EndsLegal (withFrame v c k) :=
  withFrame_of_ne_zero v k hc ▸ (hk _).endsLegal

theorem legal_resetCore (s : State) : (resetCore s).Legal := by
  constructor <;> simp [resetCore, Ctrl.encoding, Ctrl.decoding, State.outValid]

theorem legal_startJob (s : State) : ∀ m : Mode, (startJob m s).Legal
  | .enc => .of_enc rfl rfl rfl (.inl rfl)
  | .dec => .of_dec rfl rfl rfl (.inl rfl)

theorem State.Legal.start (h : s.Legal) (m : Mode) : (start m s).Legal := by
  unfold Machine.start
  split
  · exact h
  · exact legal_startJob s m

/-- An OUT step shortens `obuf` or `rep_cnt`: what is left of either was there before, and IDLE and ERROR have no OUT
step (R40 item 5). -/
theorem State.Legal.outStep (h : s.Legal) (hv : s.outValid = true) : (outStep s).Legal := by
  have hquiet : ¬ (s.st = .idle ∨ s.st = .error) := fun hst => by simp [h.quiet hst] at hv
  rcases outStep_cases s with ⟨hq, ht⟩ | ⟨hq, ht⟩ <;> rw [ht]
  · exact ⟨h.encMode, h.decMode, h.runOpen, fun _ => h.obufEnc hq, h.repDec, fun hst => absurd hst hquiet, h.errIff⟩
  · have hr : s.repCnt ≠ 0#16 := fun hr => by simp [(State.outValid_eq_false_iff s).2 ⟨hq, hr⟩] at hv
    exact ⟨h.encMode, h.decMode, h.runOpen, h.obufEnc, fun _ => h.repDec hr, fun hst => absurd hst hquiet, h.errIff⟩

theorem State.Legal.drain (h : s.Legal) : s.drain.Legal :=
  drain_induction (P := fun s t => s.Legal → t.Legal) (fun _ _ h => h) (fun _ hv ih h => ih (h.outStep hv)) s h

theorem endsLegal_encAccept (t : Token) (h : s.Legal) (hr : s.inReady = true) (hm : s.mode = .enc) :
    EndsLegal (encAccept t s) := by
  obtain ⟨ha, -, hrep⟩ := (State.inReady_iff s).1 hr
  have he := h.errCode_of_active ha
  have one : 1#16 ≠ 0#16 := by decide
  rcases h.st_of_enc ha hm with hst | ⟨hst, hc⟩
  · cases t with
    | byte b =>
      rw [encAccept_byte_eEmpty hst]
      exact State.Legal.endsLegal (.of_enc hm hrep he (.inr (.inl ⟨rfl, one⟩)))
    | eos =>
      rw [encAccept_eos_eEmpty hst]
      exact State.Legal.endsLegal (.of_enc hm hrep he (.inr (.inr rfl)))
  · cases t with
    | byte b =>
      by_cases hb : b = s.runVal
      · by_cases hlt : s.runCnt < Config.maxCount
        · have hne : s.runCnt + 1#16 ≠ 0#16 := by
            simp only [Config.maxCount] at hlt
            bv_omega
          rw [encAccept_byte_extend hst hb hlt]
          exact State.Legal.endsLegal (.of_enc hm hrep he (.inr (.inl ⟨hst, hne⟩)))
        · rw [encAccept_byte_split hst hb hlt, encSplit_eq]
          exact State.Legal.endsLegal (.of_enc hm hrep he (.inr (.inl ⟨hst, one⟩)))
      · rw [encAccept_byte_newRun hst hb]
        exact endsLegal_withFrame _ hc fun q => .of_enc hm hrep he (.inr (.inl ⟨hst, one⟩))
    | eos =>
      rw [encAccept_eos_eRun hst]
      exact endsLegal_withFrame _ hc fun q => .of_enc hm hrep he (.inr (.inr rfl))

theorem endsLegal_decAccept (t : Token) (h : s.Legal) (hr : s.inReady = true) (hm : s.mode = .dec) :
    EndsLegal (decAccept t s) := by
  obtain ⟨ha, hq, -⟩ := (State.inReady_iff s).1 hr
  have hv := State.outValid_of_inReady hr
  have he := h.errCode_of_active ha
  rcases h.st_of_dec ha hm with hst | hst | hst | hst
  · cases t with
    | byte b =>
      rw [decAccept_byte_dEmpty hst]
      exact State.Legal.endsLegal (.of_dec hm hq he (.inr (.inl rfl)))
    | eos =>
      rw [decAccept_eos_dEmpty hst]
      exact State.Legal.endsLegal (.of_dec hm hq he (.inr (.inr (.inr (.inr rfl)))))
  · cases t with
    | byte b =>
      by_cases hb : b = s.pend
      · rw [decAccept_byte_marker hst hb]
        exact State.Legal.endsLegal (.of_dec hm hq he (.inr (.inr (.inl rfl))))
      · rw [decAccept_byte_literal hst hb]
        exact State.Legal.endsLegal (.of_dec hm hq he (.inr (.inl hst)))
    | eos =>
      rw [decAccept_eos_dHave1 hst]
      exact State.Legal.endsLegal (.of_dec hm hq he (.inr (.inr (.inr (.inr rfl)))))
  · cases t with
    | byte b =>
      rw [decAccept_byte_dCntHi hst]
      exact State.Legal.endsLegal (.of_dec hm hq he (.inr (.inr (.inr (.inl rfl)))))
    | eos =>
      rw [decAccept_eos_dCntHi hst]
      exact State.Legal.endsLegal (.of_truncated hm hv rfl rfl)
  · cases t with
    | byte b =>
      rw [decAccept_byte_dCntLo hst]
      exact State.Legal.endsLegal (.of_dec hm hq he (.inl rfl))
    | eos =>
      rw [decAccept_eos_dCntLo hst]
      exact State.Legal.endsLegal (.of_truncated hm hv rfl rfl)

theorem endsLegal_offer (t : Token) (h : s.Legal) : EndsLegal (offer t s) := by
  cases hr : s.inReady with
  | false => exact offer_of_not_inReady t hr ▸ h.endsLegal
  | true =>
    cases hm : s.mode with
    | enc => exact offer_enc t hr hm ▸ endsLegal_encAccept t h hr hm
    | dec => exact offer_dec t hr hm ▸ endsLegal_decAccept t h hr hm

theorem endsLegal_execOut (h : s.Legal) : EndsLegal (execOut s) := by
  unfold execOut
  split
  · rename_i hv; exact (h.outStep hv).endsLegal
  · exact h.endsLegal

theorem endsLegal_feed (ts : List Token) (h : s.Legal) : EndsLegal (feed ts s) := by
  induction ts generalizing s with
  | nil => exact h.endsLegal
  | cons t ts ih =>
    cases ha : s.st.active with
    | false => exact feed_of_not_active _ ha ▸ h.endsLegal
    | true => exact feed_cons t ts ha ▸ (endsLegal_offer t h.drain).andThen fun _ => ih

theorem endsLegal_exec (i : Instr) (h : s.Legal) : EndsLegal (exec i s) :=
  exec_induction (legal_resetCore s).endsLegal (fun m => (h.start m).endsLegal) h.endsLegal
    (fun t => endsLegal_offer t h) (endsLegal_execOut h) (fun ts => endsLegal_feed ts h) i

theorem State.Legal.setAgenda (h : s.Legal) (l : List HostMove) : (s.setAgenda l).Legal :=
  
  ⟨h.encMode, h.decMode, h.runOpen, h.obufEnc, h.repDec, h.quiet, h.errIff⟩

theorem endsLegal_step (h : s.Legal) : EndsLegal (step s) := by
  cases ha : s.agenda with
  | nil => exact step_of_agenda_nil ha ▸ h.endsLegal
  | cons m rest =>
    cases hf : fetch m (s.setAgenda rest) with
    | none => exact step_of_fetch_none ha hf ▸ (h.setAgenda rest).endsLegal
    | some i => exact step_of_fetch_some ha hf ▸ endsLegal_exec i (h.setAgenda rest)

/-! ### The statements -/

/-- Settles O43: from a legal state a step answers a legal state, and an outcome answers no other. -/
theorem stepKeepsTheInvariants : Obligations.StepKeepsTheInvariants := by
  intro s t h hst
  obtain ⟨u, hu, hl⟩ := endsLegal_step h
  obtain rfl : u = t := Host.Outcome.next.inj (hu.symm.trans hst)
  exact hl

/-- Settles O44, by the same lemmas as O43: what ends in a legal state does not stop. -/
theorem legalStatesNeverStop : Obligations.LegalStatesNeverStop := by
  intro s h
  refine ⟨?step, fun i => ?exec⟩
  case step => obtain ⟨t, ht, -⟩ := endsLegal_step h; exact ⟨t, ht⟩
  case exec => obtain ⟨t, ht, -⟩ := endsLegal_exec i h; exact ⟨t, ht⟩

/-- Settles O42: the reset state is what Reset makes of itself. -/
theorem resetIsLegal : Obligations.ResetIsLegal := legal_resetCore State.reset

end Sys2Proof.Machine
end

section
/-! What an input step writes and what it leaves alone, mode by mode (R40 item 8, R107), and what the counters count
(R31, R32). -/

namespace Sys2Proof.Machine

variable {tk : Token} {s t : State}

/-! ### Frames of an accepted token -/

/-- What an accepted token does in both modes alike: it takes the head of the source, and a byte is counted. -/
structure AcceptFrame (tk : Token) (s t : State) : Prop where
  mode : t.mode = s.mode
  outCount : t.outCount = s.outCount
  sink : t.sink = s.sink
  agenda : t.agenda = s.agenda
  source : t.source = s.source.tail
  byteCounted : ∀ b, tk = .byte b → t.inCount = s.inCount + 1#32
  eosNotCounted : tk = .eos → t.inCount = s.inCount

/-- What an accepted token leaves alone in ENC mode: the decoder's registers and the error; `End` also the run. -/
structure EncFrame (tk : Token) (s t : State) : Prop where
  decoder : t.pend = s.pend ∧ t.chi = s.chi ∧ t.repVal = s.repVal ∧ t.repCnt = s.repCnt
  error : t.errCode = s.errCode ∧ t.errInfo = s.errInfo
  notRaised : t.st ≠ .error
  eosKeepsRun : tk = .eos → t.runVal = s.runVal ∧ t.runCnt = s.runCnt

/-- What an accepted token leaves alone in DEC mode: the encoder's registers and `obuf`; a byte also the error, `End`
also the lookahead. -/
structure DecFrame (tk : Token) (s t : State) : Prop where
  encoder : t.runVal = s.runVal ∧ t.runCnt = s.runCnt ∧ t.obuf = s.obuf
  byteKeepsError : ∀ b, tk = .byte b → t.errCode = s.errCode ∧ t.errInfo = s.errInfo
  eosKeepsLookahead : tk = .eos → t.pend = s.pend ∧ t.chi = s.chi

theorem encAccept_frame (h : encAccept tk s = .next t) : AcceptFrame tk s t ∧ EncFrame tk s t := by
  rcases encAccept_cases h with ⟨_, rfl, _, rfl⟩ | ⟨_, rfl, _, _, _, rfl⟩ | ⟨_, rfl, _, _, _, rfl⟩ |
    ⟨_, rfl, _, _, _, rfl⟩ | ⟨rfl, _, rfl⟩ | ⟨rfl, _, _, rfl⟩ <;>
    constructor <;> constructor <;> simp [encOpenRun, encExtend, encFinishEmpty, *]

theorem decAccept_frame (h : decAccept tk s = .next t) : AcceptFrame tk s t ∧ DecFrame tk s t := by
  rcases decAccept_cases h with ⟨_, rfl, _, rfl⟩ | ⟨_, rfl, _, _, rfl⟩ | ⟨_, rfl, _, _, rfl⟩ | ⟨_, rfl, _, rfl⟩ |
    ⟨_, rfl, _, rfl⟩ | ⟨rfl, _, rfl⟩ | ⟨rfl, _, rfl⟩ | ⟨rfl, _, rfl⟩ | ⟨rfl, _, rfl⟩ <;>
    constructor <;> constructor <;>
    simp [decRefill, decMarker, decLiteral, decCountHi, decCountLo, decFinish, decFlush, decTruncated0, decTruncated1]

/-! ### An offered token, accepted or held off -/

/-- A token held off changes nothing; one accepted has the frame of both modes and that of its own. -/
theorem offer_frame (h : offer tk s = .next t) :
    s.inReady = false ∧ t = s ∨
    s.inReady = true ∧ AcceptFrame tk s t ∧ (s.mode = .enc ∧ EncFrame tk s t ∨ s.mode = .dec ∧ DecFrame tk s t) := by
  rcases offer_cases h with hoff | ⟨hr, hm, ha⟩ | ⟨hr, hm, ha⟩
  · exact .inl hoff
  · obtain ⟨hf, he⟩ := encAccept_frame ha
    exact .inr ⟨hr, hf, .inl ⟨hm, he⟩⟩
  · obtain ⟨hf, hd⟩ := decAccept_frame ha
    exact .inr ⟨hr, hf, .inr ⟨hm, hd⟩⟩

theorem exec_out_eq_next (h : exec .out s = .next t) :
    s.outValid = true ∧ t = outStep s ∨ s.outValid = false ∧ t = s := by
  change execOut s = .next t at h
  unfold execOut at h
  split at h <;> simp_all

/-! ### The statements -/

/-- Settles O34: a token row offers its token, and the frames of an offered token say what it leaves alone. -/
theorem tokensKeepTheRest : Obligations.TokensKeepTheRest := by
  intro i tk s t htok h
  rw [exec_eq_offer s i htok] at h
  rcases offer_frame h with ⟨hr, rfl⟩ | ⟨hr, hf, hmode⟩
  · simp [hr]
  · refine ⟨⟨hf.mode, hf.outCount, hf.sink, hf.agenda, by rw [if_pos hr, hf.source]⟩, ?_⟩
    rcases hmode with ⟨hm, he⟩ | ⟨hm, hd⟩
    · obtain ⟨hp, hc, hv, hn⟩ := he.decoder
      refine ⟨fun _ => ⟨hp, hc, hv, hn, he.error.1, he.error.2, fun hst => absurd hst he.notRaised, fun heos => ?_⟩,
        fun hm' => nomatch hm.symm.trans hm'⟩
      obtain ⟨hrv, hrc⟩ := he.eosKeepsRun heos
      exact ⟨hrv, hrc, hf.eosNotCounted heos⟩
    · obtain ⟨hv, hc, hq⟩ := hd.encoder
      refine ⟨fun hm' => (nomatch hm.symm.trans hm'), fun _ => ⟨hv, hc, hq, hd.byteKeepsError, fun heos => ?_⟩⟩
      obtain ⟨hp, hchi⟩ := hd.eosKeepsLookahead heos
      exact ⟨hp, hchi, hf.eosNotCounted heos⟩

/-- Settles O35: a byte token is counted exactly where it is accepted, an OUT that is enabled adds one byte to the sink
and one to `out_count`, and neither touches the other counter. -/
theorem countersCountBytes : Obligations.CountersCountBytes := by
  intro i s t h
  refine ⟨fun b htok => ?byte, fun htok => ?eos, ?out⟩
  case byte =>
    rw [exec_eq_offer s i htok] at h
    rcases offer_frame h with ⟨hr, rfl⟩ | ⟨hr, hf, -⟩
    · simp [hr]
    · exact ⟨by rw [if_pos hr, hf.byteCounted b rfl], hf.outCount⟩
  case eos =>
    rw [exec_eq_offer s i htok] at h
    rcases offer_frame h with ⟨-, rfl⟩ | ⟨-, hf, -⟩
    · exact ⟨rfl, rfl⟩
    · exact ⟨hf.eosNotCounted rfl, hf.outCount⟩
  case out =>
    rintro rfl
    rcases exec_out_eq_next h with ⟨-, rfl⟩ | ⟨-, rfl⟩ <;> simp

/-- Settles O31: a token row offers its token, and with `in_ready = 0` that is no step; a wire unit feeds its tokens,
and with no job under way that is none either; an OUT that is not enabled is none by definition (log 2). -/
theorem whatIsNotEnabledChangesNothing : Obligations.WhatIsNotEnabledChangesNothing := by
  intro i s
  refine ⟨fun htok hr => ?token, fun hu ha => ?unit, fun hv => ?out⟩
  case token =>
    obtain ⟨tk, htk⟩ := Option.isSome_iff_exists.1 htok
    rw [exec_eq_offer s i htk, offer_of_not_inReady tk hr]
  case unit => rw [exec_eq_feed s hu, feed_of_not_active _ ha]
  case out => exact if_neg (by simp [hv])

/-- Settles O33: the dispatch of a mode has no row for the other mode's control states, and `frame` none for count 0. -/
theorem illegalStatesStopByName : Obligations.IllegalStatesStopByName := by
  refine ⟨fun i s htok hr hst => ?fault, fun s b d hr hm hst hc => ?refusal⟩
  case fault =>
    obtain ⟨tk, htk⟩ := Option.isSome_iff_exists.1 htok
    rw [exec_eq_offer s i htk]
    rcases hst with ⟨hm, hd⟩ | ⟨hm, he⟩
    · rw [offer_enc tk hr hm, encAccept_of_decoding tk hd]
    · rw [offer_dec tk hr hm, decAccept_of_encoding tk he]
  case refusal =>
    have heos : offer .eos s = .refused .frameOfZero := by
      rw [offer_enc _ hr hm, encAccept_eos_eRun hst, encFinishRun, hc, withFrame_zero]
    have hbyte (hb : b ≠ s.runVal) : offer (.byte b) s = .refused .frameOfZero := by
      rw [offer_enc _ hr hm, encAccept_byte_newRun hst hb, encNewRun, hc, withFrame_zero]
    refine ⟨?_, ?_, fun hb => ⟨?_, ?_⟩⟩
    · rw [exec_eq_offer s (.encEnd d) rfl, heos]
    · rw [exec_eq_offer s (.encEndERun d) rfl, heos]
    · rw [exec_eq_offer s (.encByte b) rfl, hbyte hb]
    · rw [exec_eq_offer s (.encByteNewRun b) rfl, hbyte hb]

end Sys2Proof.Machine
end

section
/-! R40 item 8, on two runs: the mode under way does not read the other mode's registers. -/

namespace Sys2Proof.Machine

variable {s : State}

/-- The registers that only the decoder reads, at other values. -/
def State.setDecRegs (p c v : Byte) (s : State) : State := { s with pend := p, chi := c, repVal := v }

/-- The registers that only the encoder reads, at other values. -/
def State.setEncRegs (v : Byte) (n : Count) (s : State) : State := { s with runVal := v, runCnt := n }

theorem andThen_withFrame (v : Byte) (c : Count) (k : OutQueue → State) (f : State → State) :
    andThen (withFrame v c k) (fun t => .next (f t)) = withFrame v c fun q => f (k q) := by
  unfold withFrame
  cases frame v c <;> rfl

/-- A change of registers that moves neither `in_ready` nor `mode` passes through the input step where it passes through
the dispatch of the mode under way. -/
theorem offer_commutes {f : State → State} (t : Token) (hr : (f s).inReady = s.inReady) (hm : (f s).mode = s.mode)
    (enc : s.mode = .enc → encAccept t (f s) = andThen (encAccept t s) fun u => .next (f u))
    (dec : s.mode = .dec → decAccept t (f s) = andThen (decAccept t s) fun u => .next (f u)) :
    offer t (f s) = andThen (offer t s) fun u => .next (f u) := by
  unfold offer
  rw [hr, hm]
  split
  · split
    · exact enc ‹_›
    · exact dec ‹_›
  · rfl

/-! ### ENC mode -/

variable (p c v : Byte)

/-- No rule of R101 to R106 reads a register of the decoder. -/
theorem encAccept_setDecRegs (t : Token) :
    encAccept t (s.setDecRegs p c v) = andThen (encAccept t s) fun u => .next (u.setDecRegs p c v) := by
  have hst : (s.setDecRegs p c v).st = s.st := rfl
  have hv : (s.setDecRegs p c v).runVal = s.runVal := rfl
  have hc : (s.setDecRegs p c v).runCnt = s.runCnt := rfl
  unfold encAccept
  rw [hst]
  split
  case h_2 => -- a byte in E_RUN: R102, R103 or R104
    rw [hv, hc]
    split_ifs
    · rfl
    · rfl
    · rw [encNewRun, encNewRun, andThen_withFrame]
      rfl
  case h_4 => -- `End` in E_RUN: R106
    rw [encFinishRun, encFinishRun, andThen_withFrame]
    rfl
  all_goals rfl

/-- An OUT reads `rep_val` only with `obuf` empty and `rep_cnt` not 0, which item 3 keeps out of ENC mode. -/
theorem execOut_setDecRegs (hr : s.repCnt = 0#16) :
    execOut (s.setDecRegs p c v) = andThen (execOut s) fun u => .next (u.setDecRegs p c v) := by
  have hv : (s.setDecRegs p c v).outValid = s.outValid := rfl
  unfold execOut
  rw [hv]
  split
  · rename_i hv
    cases hq : s.obuf with
    | empty => simp [(State.outValid_eq_false_iff s).2 ⟨hq, hr⟩] at hv
    | _ => simp [outStep, State.setDecRegs, hq, OutQueue.isEmpty, OutQueue.headD, State.emit, State.setObuf]
  · rfl

theorem offer_setDecRegs (t : Token) (hm : s.mode = .enc) :
    offer t (s.setDecRegs p c v) = andThen (offer t s) fun u => .next (u.setDecRegs p c v) :=
  offer_commutes t rfl rfl (fun _ => encAccept_setDecRegs p c v t) (fun hd => nomatch hm.symm.trans hd)

/-! ### DEC mode -/

variable (n : Count)

/-- No rule of R131 to R139 reads a register of the encoder. -/
theorem decAccept_setEncRegs (t : Token) :
    decAccept t (s.setEncRegs v n) = andThen (decAccept t s) fun u => .next (u.setEncRegs v n) := by
  have hst : (s.setEncRegs v n).st = s.st := rfl
  have hp : (s.setEncRegs v n).pend = s.pend := rfl
  unfold decAccept
  rw [hst]
  split
  case h_2 => -- a byte in D_HAVE1: R132 or R133
    rw [hp]
    split_ifs <;> rfl
  all_goals rfl

/-- An OUT reads no register of the encoder. -/
theorem execOut_setEncRegs :
    execOut (s.setEncRegs v n) = andThen (execOut s) fun u => .next (u.setEncRegs v n) := by
  have hv : (s.setEncRegs v n).outValid = s.outValid := rfl
  have hq : (s.setEncRegs v n).obuf = s.obuf := rfl
  unfold execOut outStep
  rw [hv, hq]
  split_ifs <;> rfl

theorem offer_setEncRegs (t : Token) (hm : s.mode = .dec) :
    offer t (s.setEncRegs v n) = andThen (offer t s) fun u => .next (u.setEncRegs v n) :=
  offer_commutes t rfl rfl (fun he => nomatch hm.symm.trans he) (fun _ => decAccept_setEncRegs v n t)

/-! ### The statement -/

/-- Settles O51: in each mode the input step and OUT commute with a change of the other mode's registers. -/
theorem modesShareNoState : Obligations.ModesShareNoState := by
  intro i s hi
  refine ⟨fun hm hr p c v => ?enc, fun hm v n => ?dec⟩
  case enc =>
    change exec i (s.setDecRegs p c v) = andThen (exec i s) fun t => .next (t.setDecRegs p c v)
    rcases hi with htok | rfl
    · obtain ⟨tk, htk⟩ := Option.isSome_iff_exists.1 htok
      rw [exec_eq_offer _ i htk, exec_eq_offer s i htk, offer_setDecRegs p c v tk hm]
    · exact execOut_setDecRegs p c v hr
  case dec =>
    change exec i (s.setEncRegs v n) = andThen (exec i s) fun t => .next (t.setEncRegs v n)
    rcases hi with htok | rfl
    · obtain ⟨tk, htk⟩ := Option.isSome_iff_exists.1 htok
      rw [exec_eq_offer _ i htk, exec_eq_offer s i htk, offer_setEncRegs v n tk hm]
    · exact execOut_setEncRegs v n

end Sys2Proof.Machine
end

section
/-! The registers after reset, the derived signals and the status word (R33 to R39). -/

namespace Sys2Proof.Machine

/-- Settles O7: each line is a row of R39's table, read off the reset state. -/
theorem resetStateHoldsTheTable : Obligations.ResetStateHoldsTheTable := by
  unfold Obligations.ResetStateHoldsTheTable
  decide

/-! ### The status word -/

/-- A bit of STATUS is a bit of the field it lies in, from bit 0 up (R38). -/
theorem State.status_getLsbD (s : State) {i : Nat} (h : i < 16) :
    s.status.getLsbD i =
      if i < 4 then s.st.code.getLsbD i
      else if i = 4 then s.mode.bit.getLsbD 0
      else if i = 5 then s.busy
      else if i = 6 then s.done
      else if i = 7 then s.error
      else if i < 10 then s.errCode.code.getLsbD (i - 8)
      else if i = 10 then s.errInfo.getLsbD 0
      else if i = 11 then s.outValid
      else if i = 12 then s.inReady
      else false := by
  unfold State.status
  simp only [BitVec.getLsbD_append]
  interval_cases i <;> simp

/-- Settles O36: a field of one flag is its bit, and a field of several bits has the bits of its register. -/
theorem statusWordLayout : Obligations.StatusWordLayout := by
  intro s
  refine ⟨?st, ?mode, ?busy, ?done, ?error, ?errCode, ?errInfo, ?outValid, ?inReady, ?reserved, rfl, rfl, rfl⟩
  case busy | done | error | outValid | inReady => exact s.status_getLsbD (by decide)
  case st | mode | errCode | errInfo | reserved =>
    ext i hi
    rw [BitVec.getElem_extractLsb', s.status_getLsbD (by omega)]
    interval_cases i <;> simp

/-! ### The derived signals -/

theorem OutQueue.headD_toList (q : OutQueue) (d : Byte) : q.toList.headD d = q.headD d := by cases q <;> rfl

theorem Ctrl.active_iff_code (c : Ctrl) : c.active = true ↔ c.code.toNat ∈ [1, 2, 3, 4, 5, 6] := by
  cases c <;> decide

theorem State.outValid_iff (s : State) : s.outValid = true ↔ s.obuf.toList ≠ [] ∨ s.repCnt ≠ 0#16 := by
  simp [State.outValid, ← OutQueue.isEmpty_iff_toList]

/-- In a busy state one of In and Out is enabled, and not the other (R236). -/
theorem State.inReady_of_busy {s : State} (h : s.busy = true) : s.inReady = !s.outValid := by
  rw [State.inReady_eq]
  cases hv : s.outValid with
  | true => simp
  | false => simpa [State.busy, hv] using h

/-- Settles O37: R33 to R37 with `obuf` as a list and `ACTIVE` as codes; when not busy, nothing is pending and no job
accepts tokens. -/
theorem oneOfInAndOutIsEnabled : Obligations.OneOfInAndOutIsEnabled := by
  intro s
  refine ⟨?inReady, s.outValid_iff, s.obuf.headD_toList s.repVal, ?busy, ?done, ?error, s.st.active_iff_code,
    State.inReady_of_busy, ?quiet⟩
  case inReady => rw [s.inReady_iff, ← OutQueue.isEmpty_iff, OutQueue.isEmpty_iff_toList]
  case busy => simp [State.busy]
  case done => simp [State.done]
  case error => simp [State.error]
  case quiet =>
    intro hb
    obtain ⟨ha, hq, hr⟩ := s.busy_eq_false_iff.1 hb
    have hv := s.outValid_eq_false_iff.2 ⟨hq, hr⟩
    exact ⟨by simp [State.inReady_eq, ha], hv⟩

end Sys2Proof.Machine
end

section
/-! The two streams (R51, R52): what any step may do to them, and what each kind of instruction does. -/

namespace Sys2Proof.Machine

variable {i : Instr} {s t u : State}

/-! ### What every step keeps of the streams -/

/-- From `s` to `t` tokens have left the source at its front only, and bytes have joined the sink at its end only. -/
structure StreamsRunOn (s t : State) : Prop where
  sink : s.sink <+: t.sink
  source : t.source <:+ s.source

theorem StreamsRunOn.refl (s : State) : StreamsRunOn s s := ⟨List.prefix_rfl, List.suffix_rfl⟩

theorem StreamsRunOn.trans (h : StreamsRunOn s t) (h' : StreamsRunOn t u) : StreamsRunOn s u :=
  ⟨h.sink.trans h'.sink, h'.source.trans h.source⟩

/-- Where both streams stay as they are, they run on: Reset, Start and the using up of a slot. -/
theorem StreamsRunOn.of_eq (hsink : t.sink = s.sink) (hsource : t.source = s.source) : StreamsRunOn s t :=
  ⟨hsink ▸ List.prefix_rfl, hsource ▸ List.suffix_rfl⟩

theorem streamsRunOn_outStep (s : State) : StreamsRunOn s (outStep s) :=
  ⟨outStep_sink s ▸ List.prefix_append _ _, outStep_source s ▸ List.suffix_rfl⟩

theorem streamsRunOn_offer {tk : Token} (h : offer tk s = .next t) : StreamsRunOn s t := by
  rcases offer_frame h with ⟨-, rfl⟩ | ⟨-, hf, -⟩
  · exact .refl _
  · exact ⟨hf.sink ▸ List.prefix_rfl, hf.source ▸ List.tail_suffix _⟩

theorem streamsRunOn_feed {ts : List Token} (h : feed ts s = .next t) : StreamsRunOn s t :=
  feed_induction .refl (fun _ _ _ => .trans) (fun a _ => streamsRunOn_outStep a) (fun _ _ _ => streamsRunOn_offer) h

@[simp] theorem start_sink (m : Mode) (s : State) : (start m s).sink = s.sink := by unfold start; split <;> rfl

@[simp] theorem start_source (m : Mode) (s : State) : (start m s).source = s.source := by unfold start; split <;> rfl

theorem streamsRunOn_exec (h : exec i s = .next t) : StreamsRunOn s t := by
  refine exec_induction (P := fun r => r = .next t → StreamsRunOn s t) ?reset ?start ?nop ?offer ?out ?feed i h
  case reset => rintro ⟨⟩; exact .of_eq rfl rfl
  case start => rintro m ⟨⟩; exact .of_eq (start_sink m s) (start_source m s)
  case nop => rintro ⟨⟩; exact .refl s
  case offer => exact fun _ => streamsRunOn_offer
  case out =>
    intro h
    rcases exec_out_eq_next h with ⟨-, rfl⟩ | ⟨-, rfl⟩
    · exact streamsRunOn_outStep s
    · exact .refl _
  case feed => exact fun _ => streamsRunOn_feed

theorem streamsRunOn_step (h : step s = .next t) : StreamsRunOn s t := by
  rcases step_cases h with ⟨-, rfl⟩ | ⟨m, rest, -, hslot⟩
  · exact .refl _
  · have hused : StreamsRunOn s (s.setAgenda rest) := .of_eq rfl rfl
    rcases hslot with ⟨-, rfl⟩ | ⟨i, -, hexec⟩
    · exact hused
    · exact hused.trans (streamsRunOn_exec hexec)

/-! ### What a control word keeps of them -/

/-- An instruction that is neither a token row, nor OUT, nor a wire unit is a control word, and leaves both streams. -/
theorem exec_control_streams (htok : i.token = none) (hunit : (unitTokens i).isEmpty = true) (hout : i ≠ .out)
    (h : exec i s = .next t) : t.sink = s.sink ∧ t.source = s.source := by
  cases i with
  | reset | nop => cases h; exact ⟨rfl, rfl⟩
  | startEnc | startDec => cases h; exact ⟨start_sink _ s, start_source _ s⟩
  | out => exact absurd rfl hout
  | lit | long | trunc0 | trunc1 => cases hunit
  | _ => cases htok

/-! ### The statements -/

/-- Settles O45: the streams run on in every step; an OUT emits `out_data` where it is enabled, and only OUT steps, its
own or those a wire unit waits for, emit anything. -/
theorem outputOnlyGrows : Obligations.OutputOnlyGrows := by
  refine ⟨fun s t h => (streamsRunOn_step h).sink, fun i s t h => ⟨(streamsRunOn_exec h).sink, ?out, ?keeps⟩⟩
  case out =>
    rintro rfl
    rcases exec_out_eq_next h with ⟨hv, rfl⟩ | ⟨hv, rfl⟩ <;> simp [hv]
  case keeps =>
    intro hunit hout
    cases htok : i.token with
    | none => exact (exec_control_streams htok hunit hout h).1
    | some tk =>
      obtain ⟨⟨-, -, hsink, -⟩, -⟩ := tokensKeepTheRest i tk s t htok h
      exact hsink

/-- Settles O46: the streams run on in every step; an accepted token is the source's head, one held off stays, and
neither an OUT nor a control word touches the source. -/
theorem inputIsConsumedInOrder : Obligations.InputIsConsumedInOrder := by
  refine ⟨fun s t h => (streamsRunOn_step h).source,
    fun i s t h => ⟨(streamsRunOn_exec h).source, fun htok => ?token, fun htok hunit => ?keeps⟩⟩
  case token =>
    obtain ⟨tk, htk⟩ := Option.isSome_iff_exists.1 htok
    obtain ⟨⟨-, -, -, -, hsource⟩, -⟩ := tokensKeepTheRest i tk s t htk h
    exact hsource
  case keeps =>
    by_cases hout : i = .out
    · subst hout
      rcases exec_out_eq_next h with ⟨-, rfl⟩ | ⟨-, rfl⟩
      · exact outStep_source s
      · rfl
    · exact (exec_control_streams (by simpa using htok) hunit hout h).2

end Sys2Proof.Machine
end

section
/-! A wire unit is its tokens, one after the other (R55). -/

namespace Sys2Proof.Machine

/-- The token row of a token word offers the word's token. -/
@[simp] theorem token_decodeTok (m : Mode) (w : TokenWord) : (decodeTok m w).token = some (tokenOf w) := by
  cases m <;> cases he : tokE w <;> simp [decodeTok, tokenOf, he, Instr.token]

/-- Running the row of a token's word is offering the token. -/
theorem exec_decodeTok (m : Mode) (w : TokenWord) (s : State) : exec (decodeTok m w) s = offer (tokenOf w) s :=
  exec_eq_offer s _ (token_decodeTok m w)

/-- Feeding one token is running its row after the OUT steps in its way, when a job accepts tokens. -/
theorem feed_singleton_eq_exec (t : Token) (s : State) :
    feed [t] s = if s.st.active = true then exec (decodeTok s.mode (wordOf t)) s.drain else .next s := by
  rw [feed_singleton, exec_decodeTok, tokenOf_wordOf]

/-- Feeding a list is feeding its first token and then the others. -/
theorem feed_cons_eq (t : Token) (ts : List Token) : feed (t :: ts) = fun s => andThen (feed [t] s) (feed ts) :=
  funext (feed_append [t] ts)

/-- Settles O30: LIT feeds its one token, and the other units feed theirs, which is feeding each alone in turn. -/
theorem wireUnitIsItsTokensOneByOne : Obligations.WireUnitIsItsTokensOneByOne := by
  intro s v v2 h l
  have lit (b : Byte) : exec (.lit b) = feed [.byte b] := rfl
  have long : exec (.long v v2 h l) = feed [.byte v, .byte v2, .byte h, .byte l] := rfl
  have trunc0 : exec (.trunc0 v v2) = feed [.byte v, .byte v2, .eos] := rfl
  have trunc1 : exec (.trunc1 v v2 h) = feed [.byte v, .byte v2, .byte h, .eos] := rfl
  simp only [lit, long, trunc0, trunc1, ← feed_singleton_eq_exec]
  refine ⟨fun ha => ?active, feed_of_not_active _, ?long, ?trunc0, ?trunc1⟩
  case active => rw [feed_singleton_eq_exec, if_pos ha]
  case long | trunc0 | trunc1 => simp only [feed_cons_eq _ (_ :: _)]

end Sys2Proof.Machine
end

section
/-! The end of a job does not depend on the schedule (R58): no slot of an offer or a take moves `finish`. -/

namespace Sys2Proof.Machine

variable {s t : State}

/-! ### The slots to come are not read -/

/-- No rule of R101 to R106 reads the slots to come. -/
theorem encAccept_setAgenda (l : List HostMove) (tk : Token) :
    encAccept tk (s.setAgenda l) = andThen (encAccept tk s) fun u => .next (u.setAgenda l) := by
  unfold encAccept
  rw [State.setAgenda_st]
  split
  case h_2 => -- a byte in E_RUN: R102, R103 or R104
    rw [State.setAgenda_runVal, State.setAgenda_runCnt]
    split_ifs
    · rfl
    · rfl
    · rw [encNewRun, encNewRun, andThen_withFrame]
      rfl
  case h_4 => -- `End` in E_RUN: R106
    rw [encFinishRun, encFinishRun, andThen_withFrame]
    rfl
  all_goals rfl

/-- No rule of R131 to R139 reads the slots to come. -/
theorem decAccept_setAgenda (l : List HostMove) (tk : Token) :
    decAccept tk (s.setAgenda l) = andThen (decAccept tk s) fun u => .next (u.setAgenda l) := by
  unfold decAccept
  rw [State.setAgenda_st]
  split
  case h_2 => -- a byte in D_HAVE1: R132 or R133
    rw [State.setAgenda_pend]
    split_ifs <;> rfl
  all_goals rfl

theorem offer_setAgenda (l : List HostMove) (tk : Token) :
    offer tk (s.setAgenda l) = andThen (offer tk s) fun u => .next (u.setAgenda l) :=
  offer_commutes tk rfl rfl (fun _ => encAccept_setAgenda l tk) (fun _ => decAccept_setAgenda l tk)

theorem outStep_setAgenda (l : List HostMove) (s : State) : outStep (s.setAgenda l) = (outStep s).setAgenda l := by
  unfold outStep
  rw [State.setAgenda_obuf]
  split <;> rfl

/-! ### What `finish` does not see -/

/-- `finish` leaves the slots to come out. -/
@[simp] theorem finish_setAgenda (l : List HostMove) (s : State) : finish (s.setAgenda l) = finish s := rfl

/-- Where the job has ended, it comes to the state reached. -/
theorem finish_of_not_busy (h : s.busy = false) : finish s = .next (s.setAgenda []) := by
  obtain ⟨ha, hq, hr⟩ := s.busy_eq_false_iff.1 h
  have hv : (s.setAgenda []).outValid = false := (State.outValid_eq_false_iff _).2 ⟨hq, hr⟩
  rw [finish, feed_of_not_active (s := s.setAgenda []) _ ha, andThen_next, drain_of_not_outValid hv]

/-- Feeding, and draining what is then left, is the same from before an OUT step as from after it: either begins with
the OUT steps that are enabled. -/
theorem feed_drain_outStep (ts : List Token) (h : s.outValid = true) :
    andThen (feed ts (outStep s)) (fun t => .next t.drain) = andThen (feed ts s) fun t => .next t.drain := by
  cases ha : s.st.active with
  | false =>
    have ha' : (outStep s).st.active = false := by rwa [outStep_st]
    rw [feed_of_not_active ts ha, feed_of_not_active ts ha', andThen_next, andThen_next, drain_outStep h]
  | true =>
    have ha' : (outStep s).st.active = true := by rwa [outStep_st]
    cases ts with
    | nil => rw [feed_nil, feed_nil, andThen_next, andThen_next, drain_outStep h]
    | cons tk ts => rw [feed_cons tk ts ha, feed_cons tk ts ha', drain_outStep h]

/-- A take does not move the end of the job. -/
theorem finish_of_execOut (h : execOut s = .next t) : finish t = finish s := by
  rcases exec_out_eq_next h with ⟨hv, rfl⟩ | ⟨-, rfl⟩
  · have hv' : (s.setAgenda []).outValid = true := hv
    rw [finish, finish, outStep_source, ← outStep_setAgenda, feed_drain_outStep _ hv']
  · rfl

/-- An offer of the source's head does not either: where it is accepted, it is the first thing that feeding the source
does. -/
theorem finish_of_offer_head {w : TokenWord} {ws : List TokenWord} (hsrc : s.source = w :: ws)
    (h : offer (tokenOf w) s = .next t) : finish t = finish s := by
  rcases offer_frame h with ⟨-, rfl⟩ | ⟨hr, hf, -⟩
  · rfl
  · have ha : (s.setAgenda []).st.active = true := ((State.inReady_iff s).1 hr).1
    have hv : (s.setAgenda []).outValid = false := State.outValid_of_inReady hr
    have hoffer : offer (tokenOf w) (s.setAgenda []) = .next (t.setAgenda []) := by
      rw [offer_setAgenda, h, andThen_next]
    rw [finish, finish, hf.source, hsrc, List.tail_cons, List.map_cons, feed_cons _ _ ha, drain_of_not_outValid hv,
      hoffer, andThen_next]

/-! ### Schedules of offers and takes -/

/-- What a step does when its slot is an offer or a take, or there is none: nothing but using the slot up, or the offer
of the source's head, or the take. -/
theorem step_tok_out_cases (hslot : ∀ m ∈ s.agenda.head?, m = .tok ∨ m = .out) (h : step s = .next t) :
    t = s.setAgenda s.agenda.tail ∨
    (∃ w ws, s.source = w :: ws ∧ offer (tokenOf w) (s.setAgenda s.agenda.tail) = .next t) ∨
    execOut (s.setAgenda s.agenda.tail) = .next t := by
  rcases step_cases h with ⟨ha, rfl⟩ | ⟨m, more, ha, ⟨-, rfl⟩ | ⟨i, hfetch, hexec⟩⟩
  · exact .inl (by rw [ha, List.tail_nil, ← ha]; rfl)
  · exact .inl (by rw [ha, List.tail_cons])
  · rw [ha, List.tail_cons]
    rcases hslot m (by rw [ha]; rfl) with rfl | rfl
    · obtain ⟨w, ws, hsrc, htok⟩ := fetchToken_head hfetch
      exact .inr (.inl ⟨w, ws, hsrc, exec_eq_offer _ i htok ▸ hexec⟩)
    · cases hfetch
      exact .inr (.inr hexec)

theorem finish_of_step (hslot : ∀ m ∈ s.agenda.head?, m = .tok ∨ m = .out) (h : step s = .next t) :
    finish t = finish s := by
  rw [← finish_setAgenda s.agenda.tail s]
  rcases step_tok_out_cases hslot h with rfl | ⟨w, ws, hsrc, ho⟩ | ho
  · rfl
  · exact finish_of_offer_head hsrc ho
  · exact finish_of_execOut ho

/-- An offer or a take uses up its slot and no other. -/
theorem agenda_of_step (hslot : ∀ m ∈ s.agenda.head?, m = .tok ∨ m = .out) (h : step s = .next t) :
    t.agenda = s.agenda.tail := by
  rcases step_tok_out_cases hslot h with rfl | ⟨w, ws, -, ho⟩ | ho
  · rfl
  · rcases offer_frame ho with ⟨-, rfl⟩ | ⟨-, hf, -⟩
    · rfl
    · exact hf.agenda
  · rcases exec_out_eq_next ho with ⟨-, rfl⟩ | ⟨-, rfl⟩
    · exact outStep_agenda _
    · rfl

/-- A run of `n + 1` steps is a step and a run of `n`, for any machine behind the host's interface. -/
theorem run_succ_eq_next {M : Host.Core} {n : Nat} {a b : M.State} (h : M.run (n + 1) a = .next b) :
    ∃ c, M.step a = .next c ∧ M.run n c = .next b := by
  rw [Host.Core.run] at h
  split at h
  case h_1 c hc => exact ⟨c, hc, h⟩
  all_goals cases h

theorem finish_of_run {n : Nat} (hslots : ∀ m ∈ s.agenda.take n, m = .tok ∨ m = .out)
    (h : core.run n s = .next t) : finish t = finish s := by
  induction n generalizing s with
  | zero => cases h; rfl
  | succ n ih =>
    obtain ⟨u, hstep, hrun⟩ := run_succ_eq_next h
    have hfirst : ∀ m ∈ s.agenda.head?, m = .tok ∨ m = .out := fun m hm =>
      hslots m (List.mem_of_mem_head? (by rwa [List.head?_take, if_neg n.succ_ne_zero]))
    have hothers : ∀ m ∈ u.agenda.take n, m = .tok ∨ m = .out := fun m hm =>
      hslots m (List.mem_of_mem_drop (i := 1) (by simpa [List.drop_take, agenda_of_step hfirst hstep] using hm))
    exact (ih hothers hrun).trans (finish_of_step hfirst hstep)

/-- Settles O52: the end of the job is the same from the state before a run of offers and takes as from the state after
it, and where the job is over, it is that state. -/
theorem scheduleDoesNotMatter : Obligations.ScheduleDoesNotMatter := by
  intro n s t hslots h
  have hend := finish_of_run hslots h
  exact ⟨hend, fun hb => hend ▸ finish_of_not_busy hb⟩

end Sys2Proof.Machine
end

section
/-! Decoding and encoding undo each other (R70 to R77): the answer of the decoder on the word or words of each kind of
instruction, and the word of what the decoder answers. -/

namespace Sys2Proof.Machine

/-! ### Control words and token words (R70, R71) -/

@[simp] theorem decodeCtl_reset : ∀ x : BitVec 2, decodeCtl (x ++ 1#1) = .reset x := by decide

@[simp] theorem decodeCtl_nop : ∀ x : BitVec 1, decodeCtl (x ++ 0b00#2) = .nop x := by decide

@[simp] theorem decodeTok_enc_byte (b : Byte) : decodeTok .enc (tokWord false b) = .encByte b := by simp [decodeTok]

@[simp] theorem decodeTok_enc_end (d : Byte) : decodeTok .enc (tokWord true d) = .encEnd d := by simp [decodeTok]

@[simp] theorem decodeTok_dec_byte (b : Byte) : decodeTok .dec (tokWord false b) = .decByte b := by simp [decodeTok]

@[simp] theorem decodeTok_dec_end (d : Byte) : decodeTok .dec (tokWord true d) = .decEnd d := by simp [decodeTok]

/-- A token row has a token word, which in the row's mode decodes to the port row. -/
theorem encode_of_rowMode {m : Mode} : ∀ {i : Instr}, i.rowMode = some m →
    ∃ w, encode i = .tok w ∧ decodeTok m w = i.portRow
  | .encByte b, rfl | .encByteEEmpty b, rfl | .encByteExtend b, rfl | .encByteSplit b, rfl | .encByteNewRun b, rfl =>
    ⟨_, rfl, decodeTok_enc_byte b⟩
  | .encEnd d, rfl | .encEndEEmpty d, rfl | .encEndERun d, rfl => ⟨_, rfl, decodeTok_enc_end d⟩
  | .decByte b, rfl | .decByteDEmpty b, rfl | .decByteLiteral b, rfl | .decByteMarker b, rfl | .decByteCntHi b, rfl
  | .decByteCntLo b, rfl => ⟨_, rfl, decodeTok_dec_byte b⟩
  | .decEnd d, rfl | .decEndDEmpty d, rfl | .decEndDHave1 d, rfl | .decEndDCntHi d, rfl | .decEndDCntLo d, rfl =>
    ⟨_, rfl, decodeTok_dec_end d⟩

theorem encode_decodeTok (m : Mode) (w : TokenWord) : encode (decodeTok m w) = .tok w := by
  have hw := tokWord_fields w
  cases m <;> cases he : tokE w <;> rw [he] at hw <;> simp [decodeTok, he, encode, hw]

/-! ### Wire units (R73 to R77) -/

section
variable (v h l : Byte) (rest : List TokenWord)

theorem decodeUnit_lit {v : Byte} {w : TokenWord} (hw : tokenOf w ≠ .byte v) :
    decodeUnit (wordOf (.byte v) :: w :: rest) = .ok (.lit v, w :: rest) := by
  have hnot : (tokE w || tokD w != v) = true := by
    rw [Ne, tokenOf_eq_byte_iff] at hw
    cases he : tokE w <;> simp_all
  simp [decodeUnit, wordOf, hnot]

theorem decodeUnit_trunc0 :
    decodeUnit (wordOf (.byte v) :: wordOf (.byte v) :: wordOf .eos :: rest) = .ok (.trunc0 v v, rest) := by
  simp [decodeUnit, wordOf]

theorem decodeUnit_trunc1 :
    decodeUnit (wordOf (.byte v) :: wordOf (.byte v) :: wordOf (.byte h) :: wordOf .eos :: rest) =
      .ok (.trunc1 v v h, rest) := by
  simp [decodeUnit, wordOf]

theorem decodeUnit_long :
    decodeUnit (wordOf (.byte v) :: wordOf (.byte v) :: wordOf (.byte h) :: wordOf (.byte l) :: rest) =
      .ok (.long v v h l, rest) := by
  simp [decodeUnit, wordOf]

end

/-- A unit read from a token stream is well formed, and the stream is the unit's tokens and then the words left. -/
theorem decodeUnit_eq_ok {ws rest : List TokenWord} {i : Instr} (h : decodeUnit ws = .ok (i, rest)) :
    i.wellFormed = true ∧ ws.map tokenOf = unitTokens i ++ rest.map tokenOf ∧ rest <:+ ws := by
  rcases decodeUnit_cases h with ⟨w0, w1, r, rfl, h0, -, rfl, rfl⟩ | ⟨w0, w1, w2, rfl, h0, h1, hv, h2, rfl⟩ |
    ⟨w0, w1, w2, w3, rfl, h0, h1, hv, h2, h3, rfl⟩ | ⟨w0, w1, w2, w3, rfl, h0, h1, hv, h2, h3, rfl⟩
  · exact ⟨rfl, by simp [unitTokens, tokenOf, h0], List.suffix_append [w0] _⟩
  · exact ⟨by simp [Instr.wellFormed, hv], by simp [unitTokens, tokenOf, h0, h1, h2],
      List.suffix_append [w0, w1, w2] _⟩
  · exact ⟨by simp [Instr.wellFormed, hv], by simp [unitTokens, tokenOf, h0, h1, h2, h3],
      List.suffix_append [w0, w1, w2, w3] _⟩
  · exact ⟨by simp [Instr.wellFormed, hv], by simp [unitTokens, tokenOf, h0, h1, h2, h3],
      List.suffix_append [w0, w1, w2, w3] _⟩

/-- A word is a long-form unit exactly where its bits 23:16 equal its bits 31:24, and then its bytes are the unit's. -/
theorem decodeLongWord_eq_ok {w : LongWord} {i : Instr} :
    decodeLongWord w = .ok i ↔ longV2 w = longV w ∧ i = .long (longV w) (longV w) (longHi w) (longLo w) := by
  rcases decodeLongWord_cases w with ⟨hv, hw⟩ | ⟨hv, hw⟩ <;> simp [hv, hw, eq_comm]

@[simp] theorem longBytes_longWord (v v2 h l : Byte) : longBytes (longWord v v2 h l) = [v, v2, h, l] := by
  simp [longBytes]

@[simp] theorem decodeLongWord_longWord (v h l : Byte) : decodeLongWord (longWord v v h l) = .ok (.long v v h l) :=
  decodeLongWord_eq_ok.2 (by simp)

/-! ### The statements -/

/-- Settles O4: a token row by its word in its mode, any other instruction by the answer of the decoder on its word or,
for a wire unit, on its tokens. -/
theorem decodingUndoesEncoding : Obligations.DecodingUndoesEncoding := by
  intro i m rest hwf hmode hlook
  cases hrow : i.rowMode with
  | some k =>
    obtain ⟨w, hw, hdec⟩ := encode_of_rowMode hrow
    rw [hw, hmode k hrow, decode, hdec]
  | none =>
    cases i with
    | reset x | nop x => simp [encode, decode, Instr.portRow]
    | startEnc | startDec | out => rfl
    | lit v =>
      cases rest with
      | nil => cases hlook
      | cons w ws => exact decodeUnit_lit ws (by simpa [lookaheadOk] using hlook)
    | long v v2 h l =>
      obtain rfl : v = v2 := by simpa [Instr.wellFormed] using hwf
      exact decodeUnit_long v h l rest
    | trunc0 v v2 =>
      obtain rfl : v = v2 := by simpa [Instr.wellFormed] using hwf
      exact decodeUnit_trunc0 v rest
    | trunc1 v v2 h =>
      obtain rfl : v = v2 := by simpa [Instr.wellFormed] using hwf
      exact decodeUnit_trunc1 v h rest
    | _ => cases hrow

/-- Settles O5: the eight control words one by one, a token word from its two fields, a wire unit from what the decoder
can answer, and a 32-bit word from its four fields. -/
theorem encodingUndoesDecoding : Obligations.EncodingUndoesDecoding := by
  refine ⟨by decide, encode_decodeTok, fun ws rest i => decodeUnit_eq_ok, fun w i rest h => ?word⟩
  obtain ⟨hv, rfl⟩ := decodeLongWord_eq_ok.1 h
  refine ⟨by simp [Instr.wellFormed], ⟨_, _, _, _, rfl, ?fields⟩, ?stream⟩
  case fields => simpa only [hv] using longWord_fields w
  case stream => rw [longBytes, hv]; exact decodeUnit_long _ _ _ rest

/-- Settles O1: the decoder evaluated on the words. -/
theorem wordsDecodeAsTheSpecWritesThem : Obligations.WordsDecodeAsTheSpecWritesThem := by
  unfold Obligations.WordsDecodeAsTheSpecWritesThem
  decide

/-- Settles O2: the table on all eight words; RESET and NOP do not read the bits they ignore. -/
theorem controlWordsFollowTheTable : Obligations.ControlWordsFollowTheTable :=
  ⟨by decide, fun _ _ _ => rfl, fun _ _ => rfl⟩

/-- Settles O3: the words `0 b` and `1 d` are put together from their fields, and a token row runs as the offer of its
token, in which the data bits of an `End` are gone. -/
theorem tokenWordsFollowTheTable : Obligations.TokenWordsFollowTheTable := by
  refine ⟨fun b => ⟨tokenOf_tokWord_false b, tokenOf_tokWord_true b⟩, rfl,
    fun b => (BitVec.toNat_append 0#1 b).trans (by simp), fun m b => ⟨?byte, ?eos⟩, fun m d d2 s => ?sameResult⟩
  case byte =>
    cases m with
    | enc => exact decodeTok_enc_byte b
    | dec => exact decodeTok_dec_byte b
  case eos =>
    cases m with
    | enc => exact decodeTok_enc_end b
    | dec => exact decodeTok_dec_end b
  case sameResult =>
    have offersEnd (d : Byte) : exec (decodeTok m (1#1 ++ d)) s = offer .eos s :=
      (exec_decodeTok m (tokWord true d) s).trans (by rw [tokenOf_tokWord_true])
    rw [offersEnd d, offersEnd d2]

/-- Settles O6: the decoder on a doubled byte and two more, and on a byte with a token that is not that byte. -/
theorem firstTwoBytesDecideTheUnit : Obligations.FirstTwoBytesDecideTheUnit :=
  ⟨decodeUnit_long, fun _ _ rest => decodeUnit_lit rest⟩

end Sys2Proof.Machine
end

section
/-! Wire units at a unit boundary of a decode job, run to their end (R73, R74, R131 to R135), and the count of a long-form
unit. -/

namespace Sys2Proof.Machine

/-! ### The count of a long-form unit (R74) -/

theorem countOf_toNat (h l : Byte) : (countOf h l).toNat = h.toNat * 256 + l.toNat := by
  rw [countOf, BitVec.toNat_append, ← Nat.shiftLeft_add_eq_or_of_lt l.isLt, Nat.shiftLeft_eq]

/-- The count is `zext_16(C_hi) << 8 | zext_16(C_lo)`. -/
theorem countOf_eq_shift_or (h l : Byte) : countOf h l = h.setWidth 16 <<< 8 ||| l.setWidth 16 :=
  (BitVec.setWidth_eq (h ++ l)).symm.trans BitVec.setWidth_append_eq_shiftLeft_setWidth_or

/-- The count is bits 15:0 of the 32-bit word. -/
theorem extractLsb'_count (w : LongWord) : w.extractLsb' 0 16 = countOf (longHi w) (longLo w) := by
  obtain ⟨-, -, hh, hl⟩ := long_fields_toNat w
  apply BitVec.eq_of_toNat_eq
  rw [countOf_toNat, hh, hl, BitVec.extractLsb'_toNat, Nat.shiftRight_zero]
  omega

variable {s t : State} {v h l : Byte}

/-! ### Units run to their end -/

/-- A job that accepts tokens goes on accepting them after a step that loads nothing into the output stage. -/
theorem State.inReady_of_stage_kept (hr : s.inReady = true) (ha : t.st.active = true) (hq : t.obuf = s.obuf)
    (hc : t.repCnt = s.repCnt) : t.inReady = true := by
  obtain ⟨-, hq0, hc0⟩ := s.inReady_iff.1 hr
  exact t.inReady_iff.2 ⟨ha, hq.trans hq0, hc.trans hc0⟩

/-- Feeding a token that a decode job accepts runs its rule; no OUT step stands before it. -/
theorem feed_cons_of_decAccept {tk : Token} {ts : List Token} (hr : s.inReady = true) (hm : s.mode = .dec)
    (h : decAccept tk s = .next t) : feed (tk :: ts) s = feed ts t := by
  rw [feed_cons tk ts (s.inReady_iff.1 hr).1, drain_of_not_outValid (State.outValid_of_inReady hr), offer_dec tk hr hm, h,
    andThen_next]

/-- A token row that a decode job accepts is the dispatch of R130 on its token. -/
theorem exec_token_dec {i : Instr} {tk : Token} (htok : i.token = some tk) (hr : s.inReady = true)
    (hm : s.mode = .dec) : exec i s = decAccept tk s :=
  (exec_eq_offer s i htok).trans (offer_dec tk hr hm)

section
variable (hr : s.inReady = true) (hm : s.mode = .dec) (hst : s.st = .dEmpty)
include hr hm hst

/-- LIT at a unit boundary is R131. -/
theorem exec_lit_dEmpty : exec (.lit v) s = .next (decRefill v s) :=
  feed_cons_of_decAccept hr hm (decAccept_byte_dEmpty hst)

/-- LONG at a unit boundary is R131, R133, R134 and R135, one after the other. -/
theorem exec_long_dEmpty :
    exec (.long v v h l) s = .next (decCountLo l (decCountHi h (decMarker (decRefill v s)))) := by
  have hr1 : (decRefill v s).inReady = true := State.inReady_of_stage_kept hr rfl rfl rfl
  have hr2 : (decMarker (decRefill v s)).inReady = true := State.inReady_of_stage_kept hr rfl rfl rfl
  have hr3 : (decCountHi h (decMarker (decRefill v s))).inReady = true := State.inReady_of_stage_kept hr rfl rfl rfl
  calc exec (.long v v h l) s
    _ = feed [.byte v, .byte h, .byte l] (decRefill v s) := feed_cons_of_decAccept hr hm (decAccept_byte_dEmpty hst)
    _ = feed [.byte h, .byte l] (decMarker (decRefill v s)) :=
      feed_cons_of_decAccept hr1 hm (decAccept_byte_marker rfl rfl)
    _ = feed [.byte l] (decCountHi h (decMarker (decRefill v s))) :=
      feed_cons_of_decAccept hr2 hm (decAccept_byte_dCntHi rfl)
    _ = .next _ := feed_cons_of_decAccept hr3 hm (decAccept_byte_dCntLo rfl)

/-- LONG at a unit boundary stands for the copies that its count says, and ends at a unit boundary (R74). -/
theorem exec_long_dEmpty_drain :
    ∃ t, exec (.long v v h l) s = .next t ∧ t.drain.st = .dEmpty ∧ t.drain.inReady = true ∧
      t.drain.sink = s.sink ++ List.replicate (countOf h l).toNat v := by
  obtain ⟨-, hq, -⟩ := s.inReady_iff.1 hr
  refine ⟨_, exec_long_dEmpty hr hm hst, by rw [drain_st]; rfl, ?inReady, ?sink⟩
  case inReady => exact (State.inReady_iff _).2 ⟨by rw [drain_st]; rfl, drain_obuf _, drain_repCnt _⟩
  case sink => simp [drain_sink, decCountLo, decCountHi, decMarker, decRefill, hq]

end

/-! ### The statements -/

/-- Settles O28: the byte goes into the lookahead (R131), and the next token, another byte (R132) or `End` (R137), puts
one copy of it into the output stage. -/
theorem literalStandsForItsByte : Obligations.LiteralStandsForItsByte := by
  intro s v hr hm hst
  obtain ⟨-, hq, -⟩ := s.inReady_iff.1 hr
  have hr1 : (decRefill v s).inReady = true := State.inReady_of_stage_kept hr rfl rfl rfl
  rw [exec_lit_dEmpty hr hm hst]
  refine ⟨fun b hb => ⟨decLiteral b (decRefill v s), ?byte, rfl, rfl, ?byteSink⟩,
    fun d => ⟨decFlush (decRefill v s), ?eos, rfl, ?eosSink⟩⟩
  case byte => exact (exec_token_dec (i := .decByte b) rfl hr1 hm).trans (decAccept_byte_literal rfl hb)
  case eos => exact (exec_token_dec (i := .decEnd d) rfl hr1 hm).trans (decAccept_eos_dHave1 rfl)
  case byteSink => simp [drain_sink, decLiteral, decRefill, hq]
  case eosSink => simp [drain_sink, decFlush, decRefill, hq]

/-- Settles O29: the fields of the 32-bit word by the lemmas of R74, the run by the four rules of the unit's bytes. -/
theorem longFormStandsForItsRun : Obligations.LongFormStandsForItsRun := by
  refine ⟨fun v h l => ?layout, fun w hw => ?noMarker, fun s v h l hr hm hst => ?bytes, fun s w hr hm hst hw => ?word⟩
  case layout =>
    refine ⟨rfl, longV_longWord v v h l, longV2_longWord v v h l, longHi_longWord v v h l, longLo_longWord v v h l, ?_,
      decodeLongWord_longWord v h l⟩
    rw [extractLsb'_count, longHi_longWord, longLo_longWord, countOf_eq_shift_or]
  case noMarker => exact ((decodeLongWord_cases w).resolve_left fun h => hw h.1).2
  case bytes => exact countOf_toNat h l ▸ exec_long_dEmpty_drain hr hm hst
  case word =>
    obtain ⟨t, ht, -, hready, hsink⟩ := exec_long_dEmpty_drain (v := longV w) hr hm hst
    exact ⟨_, t, decodeLongWord_eq_ok.2 ⟨hw, rfl⟩, ht, hready, extractLsb'_count w ▸ hsink⟩

end Sys2Proof.Machine
end

section
/-! A table word placed where the next step fetches it (log 10). -/

namespace Sys2Proof.Machine

/-! ### The port of a word -/

theorem tablePortWord_ctl (w : ControlWord) : tablePortWord 8 w.toNat = .ctl w := by
  simp [tablePortWord, w.isLt]

theorem tablePortWord_tok (w : TokenWord) : tablePortWord 16 w.toNat = .tok w := by
  simp [tablePortWord, w.isLt]

theorem tablePortWord_long (w : LongWord) :
    tablePortWord 32 w.toNat = .wire ((longBytes w).map (fun b => wordOf (.byte b)) ++ [wordOf .eos]) := by
  simp [tablePortWord, wordOf]

/-! ### The state in which a word is placed -/

variable {s : State}

theorem place_tok_of_inReady (w : TokenWord) (hr : s.inReady = true) (hm : s.mode = .enc) :
    s.place (.tok w) = (s.setSource (w :: s.source)).setAgenda (.tok :: s.agenda) := by
  simp [State.place, hr, hm]

theorem place_wire_of_boundary (ws : List TokenWord) (hr : s.inReady = true) (hm : s.mode = .dec)
    (hst : s.st = .dEmpty) : s.place (.wire ws) = (s.setSource (ws ++ s.source)).setAgenda (.unit :: s.agenda) := by
  simp [State.place, hr, hm, hst]

/-! ### The statement -/

/-- Settles O41: the word's port, the state that placing it there makes, and what the slot placed presents. -/
theorem placedWordRunsNext : Obligations.PlacedWordRunsNext := by
  intro s
  refine ⟨fun w => ?ctl, fun hr hm w => ?tok, fun hr hm hst v h l => ?long⟩
  case ctl =>
    rw [State.withFetchWord, tablePortWord_ctl]
    exact step_of_fetch_some rfl (fetch_ctl w _)
  case tok =>
    rw [State.withFetchWord, tablePortWord_tok, place_tok_of_inReady w hr hm, ← hm]
    exact step_of_fetch_some rfl ((fetch_tok _).trans (fetchToken_of_source_cons (ws := s.source) rfl))
  case long =>
    rw [State.withFetchWord, tablePortWord_long, longBytes_longWord, place_wire_of_boundary _ hr hm hst,
      List.append_assoc, List.singleton_append]
    have hunit : decodeUnit ([v, v, h, l].map (fun b => wordOf (.byte b)) ++ wordOf .eos :: s.source) =
        .ok (.long v v h l, wordOf .eos :: s.source) := decodeUnit_long v h l _
    exact step_of_fetch_some rfl (fetch_unit_of_ok hunit)

end Sys2Proof.Machine
end

section
/-! The encoder's rows (R101 to R106): in a state where its rule applies, a row and its port row both answer what the
rule writes, and what the rule puts into the output stage decides the flags. -/

namespace Sys2Proof.Machine

variable {s t : State}

/-! ### The rows of an accepted token -/

/-- Where an encode job accepts a token, every row of that token is the rule that the dispatch of R100 picks. -/
theorem exec_of_encAccept {tk : Token} (hr : s.inReady = true) (hm : s.mode = .enc) (h : encAccept tk s = .next t)
    (i : Instr) (htok : i.token = some tk) : exec i s = .next t := by
  rw [exec_eq_offer s i htok, offer_enc tk hr hm, h]

theorem encNewRun_of_ne_zero (b : Byte) (hc : s.runCnt ≠ 0#16) :
    encNewRun b s = .next ((s.takeByte.setObuf (frameBytes s.runVal s.runCnt)).setRun b 1#16) :=
  withFrame_of_ne_zero _ _ hc

theorem encFinishRun_of_ne_zero (hc : s.runCnt ≠ 0#16) :
    encFinishRun s = .next ((s.accept.setObuf (frameBytes s.runVal s.runCnt)).setSt .done) :=
  withFrame_of_ne_zero _ _ hc

/-! ### What `obuf` decides -/

@[simp] theorem frameBytes_length (v : Byte) (c : Count) : (frameBytes v c).length = if c = 1#16 then 1 else 4 := by
  unfold frameBytes
  split <;> rfl

theorem State.outValid_of_obuf (h : t.obuf.isEmpty = false) : t.outValid = true := by
  simp [State.outValid, h]

theorem State.inReady_of_obuf (h : t.obuf.isEmpty = false) : t.inReady = false := by
  simp [State.inReady, h]

/-- A step from a state with an empty stage that leaves `rep_cnt` alone has only `obuf` pending after it. -/
theorem State.pendingOut_of_repCnt_kept (hr : s.inReady = true) (hc : t.repCnt = s.repCnt) :
    t.pendingOut = t.obuf.length := by
  obtain ⟨-, -, hc0⟩ := s.inReady_iff.1 hr
  simp [State.pendingOut, hc, hc0]

/-! ### The statements -/

/-- Settles O32: the rows of both modes against the dispatch are `exec_eq_offer`. -/
theorem tokenRowsAgreeWithTheDispatch : Obligations.TokenRowsAgreeWithTheDispatch :=
  fun i _ s htok => exec_eq_offer s i htok

/-- Settles O10: R101 loads nothing into the output stage. -/
theorem encByteOpensTheFirstRun : Obligations.EncByteOpensTheFirstRun := by
  intro b s hr hm hst
  have row := exec_of_encAccept hr hm (encAccept_byte_eEmpty (b := b) hst)
  have ready : (encOpenRun b s).inReady = true := State.inReady_of_stage_kept hr rfl rfl rfl
  exact ⟨decodeTok_enc_byte b, _, row (.encByte b) rfl, row (.encByteEEmpty b) rfl, rfl, rfl, ready,
    State.outValid_of_inReady ready⟩

/-- Settles O11: R102 writes no register that a flag reads, and below the cap the count has room for 1 more. -/
theorem encByteExtendsTheRun : Obligations.EncByteExtendsTheRun := by
  intro b s hr hm hst hb hc
  have row := exec_of_encAccept hr hm (encAccept_byte_extend hst hb (BitVec.lt_def.2 hc))
  have count : (s.runCnt + 1#16).toNat = s.runCnt.toNat + 1 := BitVec.toNat_add_of_lt (Nat.succ_lt_succ hc)
  exact ⟨decodeTok_enc_byte b, _, row (.encByte b) rfl, row (.encByteExtend b) rfl, rfl, count, hr, rfl⟩

/-- Settles O12: R103 loads the four bytes of a full chunk. -/
theorem encByteSplitsAtTheCap : Obligations.EncByteSplitsAtTheCap := by
  intro b s hr hm hst hb hc
  have atCap : ¬ s.runCnt < Config.maxCount := fun hlt => (BitVec.lt_def.1 hlt).ne hc
  have row := exec_of_encAccept hr hm ((encAccept_byte_split hst hb atCap).trans (encSplit_eq s))
  exact ⟨decodeTok_enc_byte b, _, row (.encByte b) rfl, row (.encByteSplit b) rfl, rfl, State.outValid_of_obuf rfl,
    State.inReady_of_obuf rfl, State.pendingOut_of_repCnt_kept hr rfl⟩

/-- Settles O13: R104 loads the frame of the run that `b` ends. -/
theorem encByteClosesTheRun : Obligations.EncByteClosesTheRun := by
  intro b s hr hm hst hb hc
  have row := exec_of_encAccept hr hm ((encAccept_byte_newRun hst hb).trans (encNewRun_of_ne_zero b hc))
  have filled := frameBytes_isEmpty s.runVal s.runCnt
  exact ⟨decodeTok_enc_byte b, _, row (.encByte b) rfl, row (.encByteNewRun b) rfl, rfl, State.outValid_of_obuf filled,
    State.inReady_of_obuf filled,
    Eq.trans (State.pendingOut_of_repCnt_kept hr rfl) (frameBytes_length s.runVal s.runCnt)⟩

/-- Settles O14: R105 enters DONE with the output stage as empty as it was. -/
theorem encEndOfTheEmptyStream : Obligations.EncEndOfTheEmptyStream := by
  intro d s hr hm hst
  have row := exec_of_encAccept hr hm (encAccept_eos_eEmpty hst)
  have finished : (encFinishEmpty s).st = .done := rfl
  have drained : (encFinishEmpty s).outValid = false := State.outValid_of_inReady (s := s) hr
  have done : (encFinishEmpty s).done = true := by simp [State.done, finished, drained]
  have notBusy : (encFinishEmpty s).busy = false := by simp [State.busy, finished, drained, Ctrl.active]
  exact ⟨decodeTok_enc_end d, _, row (.encEnd d) rfl, row (.encEndEEmpty d) rfl, rfl, rfl, done, notBusy, drained⟩

/-- Settles O15: R106 enters DONE with the last frame in the output stage, so that `done` waits until it is drained. -/
theorem encEndClosesTheRun : Obligations.EncEndClosesTheRun := by
  intro d s hr hm hst hc
  have row := exec_of_encAccept hr hm ((encAccept_eos_eRun hst).trans (encFinishRun_of_ne_zero hc))
  have pending := State.outValid_of_obuf (t := (s.accept.setObuf (frameBytes s.runVal s.runCnt)).setSt .done)
    (frameBytes_isEmpty s.runVal s.runCnt)
  exact ⟨decodeTok_enc_end d, _, row (.encEnd d) rfl, row (.encEndERun d) rfl, rfl, rfl, pending,
    by simp [State.done, pending], by simp [State.done]⟩

end Sys2Proof.Machine
end

section
/-! The decoder's rows (R131 to R139): in a state where its rule applies, a row and its port row both answer what the
rule writes, and `rep_cnt` decides the flags. Wire units at a unit boundary are those rules in a row. -/

namespace Sys2Proof.Machine

variable {s t : State}

/-! ### The rows of an accepted token -/

/-- Where a decode job accepts a token, every row of that token is the rule that the dispatch of R130 picks. -/
theorem exec_of_decAccept {tk : Token} (hr : s.inReady = true) (hm : s.mode = .dec) (h : decAccept tk s = .next t)
    (i : Instr) (htok : i.token = some tk) : exec i s = .next t :=
  (exec_token_dec htok hr hm).trans h

/-! ### What the output stage decides -/

theorem State.outValid_of_repCnt (h : t.repCnt ≠ 0#16) : t.outValid = true := by
  simp [State.outValid, h]

theorem State.inReady_of_outValid (h : t.outValid = true) : t.inReady = false := by
  simp [State.inReady_eq, h]

/-- A step from a state with an empty stage that leaves `obuf` alone has only copies of `rep_val` pending after it. -/
theorem State.pendingOut_of_obuf_kept (hr : s.inReady = true) (hq : t.obuf = s.obuf) :
    t.pendingOut = t.repCnt.toNat := by
  obtain ⟨-, hq0, -⟩ := s.inReady_iff.1 hr
  simp [State.pendingOut, hq, hq0]

/-- With `obuf` empty the byte an OUT step emits is `rep_val` (R34). -/
theorem State.outData_of_obuf_empty (h : t.obuf = .empty) : t.outData = t.repVal := by
  rw [State.outData, h, OutQueue.headD]

theorem State.done_of_st (h : t.st = .done) : t.done = !t.outValid := by
  simp [State.done, h]

theorem State.busy_of_not_active (h : t.st.active = false) : t.busy = t.outValid := by
  simp [State.busy, h]

/-! ### Bytes of the next unit (R131, R132) -/

/-- Settles O16: R131 loads nothing into the output stage and goes to D_HAVE1. -/
theorem decByteRefillsTheLookahead : Obligations.DecByteRefillsTheLookahead := by
  intro b s hr hm hst
  have row := exec_of_decAccept hr hm (decAccept_byte_dEmpty (b := b) hst)
  exact ⟨decodeTok_dec_byte b, _, row (.decByte b) rfl, row (.decByteDEmpty b) rfl, rfl, rfl⟩

/-- Settles O17: R132 loads one copy of the pending byte. -/
theorem decByteFindsALiteral : Obligations.DecByteFindsALiteral := by
  intro b s hr hm hst hb
  have row := exec_of_decAccept hr hm (decAccept_byte_literal hst hb)
  have pending : (decLiteral b s).outValid = true := State.outValid_of_repCnt (by decide : 1#16 ≠ 0#16)
  exact ⟨decodeTok_dec_byte b, _, row (.decByte b) rfl, row (.decByteLiteral b) rfl, rfl, pending,
    State.inReady_of_outValid pending, State.pendingOut_of_obuf_kept hr rfl⟩

/-! ### Bytes of a long-form unit (R133 to R135) -/

/-- Settles O18: R133 writes the control state and no other register of the decoder. -/
theorem decByteFindsTheMarker : Obligations.DecByteFindsTheMarker := by
  intro b s hr hm hst hb
  have row := exec_of_decAccept hr hm (decAccept_byte_marker hst hb)
  exact ⟨decodeTok_dec_byte b, _, row (.decByte b) rfl, row (.decByteMarker b) rfl, rfl, rfl⟩

/-- Settles O19: R134 holds the byte in `chi`. -/
theorem decByteTakesTheHighCount : Obligations.DecByteTakesTheHighCount := by
  intro h s hr hm hst
  have row := exec_of_decAccept hr hm (decAccept_byte_dCntHi (b := h) hst)
  exact ⟨decodeTok_dec_byte h, _, row (.decByte h) rfl, row (.decByteCntHi h) rfl, rfl, rfl⟩

/-- Settles O20: R135 loads as many copies as the count says; with count 0 the stage is as empty as it was, and the job
goes on accepting tokens. -/
theorem decByteExpandsTheUnit : Obligations.DecByteExpandsTheUnit := by
  intro l s hr hm hst
  have row := exec_of_decAccept hr hm (decAccept_byte_dCntLo (b := l) hst)
  have copies : (decCountLo l s).pendingOut = s.chi.toNat * 256 + l.toNat :=
    Eq.trans (State.pendingOut_of_obuf_kept hr rfl) (countOf_toNat s.chi l)
  refine ⟨decodeTok_dec_byte l, _, row (.decByte l) rfl, row (.decByteCntLo l) rfl, rfl, rfl, copies,
    fun hc => ?copiesPending, fun hc => ?noCopies⟩
  case copiesPending =>
    have pending : (decCountLo l s).outValid = true := State.outValid_of_repCnt hc
    exact ⟨pending, State.inReady_of_outValid pending⟩
  case noCopies =>
    obtain ⟨-, hq, -⟩ := s.inReady_iff.1 hr
    have ready : (decCountLo l s).inReady = true := (State.inReady_iff _).2 ⟨rfl, hq, hc⟩
    exact ⟨State.outValid_of_inReady ready, ready⟩

/-! ### The end of the stream (R136 to R139) -/

/-- Settles O21: R136 enters DONE with the output stage as empty as it was. -/
theorem decEndAtAUnitBoundary : Obligations.DecEndAtAUnitBoundary := by
  intro d s hr hm hst
  have row := exec_of_decAccept hr hm (decAccept_eos_dEmpty hst)
  have drained : (decFinish s).outValid = false := State.outValid_of_inReady (s := s) hr
  exact ⟨decodeTok_dec_end d, _, row (.decEnd d) rfl, row (.decEndDEmpty d) rfl, rfl, rfl,
    by rw [State.done_of_st rfl, drained]; rfl, (State.busy_of_not_active rfl).trans drained⟩

/-- Settles O22: R137 enters DONE with one copy of the pending byte in the output stage, so that `done` waits for the
one OUT step that emits it. -/
theorem decEndFlushesThePendingByte : Obligations.DecEndFlushesThePendingByte := by
  intro d s hr hm hst
  have row := exec_of_decAccept hr hm (decAccept_eos_dHave1 hst)
  obtain ⟨-, hq, -⟩ := s.inReady_iff.1 hr
  have pending : (decFlush s).outValid = true := State.outValid_of_repCnt (by decide : 1#16 ≠ 0#16)
  have oneByte : (decFlush s).pendingOut = 1 := State.pendingOut_of_obuf_kept hr rfl
  have drained : (outStep (decFlush s)).outValid = false := by
    have := pendingOut_outStep pending
    exact (State.pendingOut_eq_zero_iff _).1 (by omega)
  have emitted : (decFlush s).outData = s.pend := State.outData_of_obuf_empty hq
  refine ⟨decodeTok_dec_end d, _, row (.decEnd d) rfl, row (.decEndDHave1 d) rfl, rfl, rfl, pending, ?waits,
    ?done, ?sink⟩
  case waits => rw [State.done_of_st rfl, pending]; rfl
  case done => rw [State.done_of_st (outStep_st _), drained]; rfl
  case sink => rw [outStep_sink, emitted]; rfl

/-- Settles O23: R138 raises with `err_info = 0`, the output stage as empty as it was. -/
theorem decEndAfterTheMarkerRaises : Obligations.DecEndAfterTheMarkerRaises := by
  intro d s hr hm hst
  have row := exec_of_decAccept hr hm (decAccept_eos_dCntHi hst)
  have drained : (decTruncated0 s).outValid = false := State.outValid_of_inReady (s := s) hr
  exact ⟨decodeTok_dec_end d, _, row (.decEnd d) rfl, row (.decEndDCntHi d) rfl, rfl, rfl, rfl, rfl,
    (State.busy_of_not_active rfl).trans drained, drained⟩

/-- Settles O24: R139 raises with `err_info = 1`, the output stage as empty as it was. -/
theorem decEndAfterTheHighCountRaises : Obligations.DecEndAfterTheHighCountRaises := by
  intro d s hr hm hst
  have row := exec_of_decAccept hr hm (decAccept_eos_dCntLo hst)
  have drained : (decTruncated1 s).outValid = false := State.outValid_of_inReady (s := s) hr
  exact ⟨decodeTok_dec_end d, _, row (.decEnd d) rfl, row (.decEndDCntLo d) rfl, rfl, rfl, rfl, rfl,
    (State.busy_of_not_active rfl).trans drained, drained⟩

/-! ### Wire units at a unit boundary -/

/-- A byte and its double at a unit boundary, taken one after the other: the lookahead is held and the marker seen. -/
theorem decMarker_decRefill (v : Byte) (s : State) :
    decMarker (decRefill v s) =
      { s with source := s.source.drop 2, pend := v, st := .dCntHi, inCount := s.inCount + 2#32 } := by
  have twoHeads : s.source.tail.tail = s.source.drop 2 := by rw [← List.drop_one, List.drop_tail]
  simp [decMarker, decRefill, State.takeByte, State.setPend, State.setSt, BitVec.add_assoc, twoHeads]

section
variable {v h : Byte} (hr : s.inReady = true) (hm : s.mode = .dec) (hst : s.st = .dEmpty)
include hr hm hst

/-- Feeding a doubled byte at a unit boundary is R131 and R133; no OUT step stands between or after them. -/
theorem feed_doubled_dEmpty (ts : List Token) :
    feed (.byte v :: .byte v :: ts) s = feed ts (decMarker (decRefill v s)) := by
  have hr1 : (decRefill v s).inReady = true := State.inReady_of_stage_kept hr rfl rfl rfl
  calc feed (.byte v :: .byte v :: ts) s
    _ = feed (.byte v :: ts) (decRefill v s) := feed_cons_of_decAccept hr hm (decAccept_byte_dEmpty hst)
    _ = feed ts (decMarker (decRefill v s)) := feed_cons_of_decAccept hr1 hm (decAccept_byte_marker rfl rfl)

/-- TRUNC0 at a unit boundary is R131, R133 and R138. -/
theorem exec_trunc0_dEmpty : exec (.trunc0 v v) s = .next (decTruncated0 (decMarker (decRefill v s))) := by
  have hr2 : (decMarker (decRefill v s)).inReady = true := State.inReady_of_stage_kept hr rfl rfl rfl
  calc exec (.trunc0 v v) s
    _ = feed [.eos] (decMarker (decRefill v s)) := feed_doubled_dEmpty hr hm hst _
    _ = .next _ := feed_cons_of_decAccept hr2 hm (decAccept_eos_dCntHi rfl)

/-- TRUNC1 at a unit boundary is R131, R133, R134 and R139. -/
theorem exec_trunc1_dEmpty :
    exec (.trunc1 v v h) s = .next (decTruncated1 (decCountHi h (decMarker (decRefill v s)))) := by
  have hr2 : (decMarker (decRefill v s)).inReady = true := State.inReady_of_stage_kept hr rfl rfl rfl
  have hr3 : (decCountHi h (decMarker (decRefill v s))).inReady = true := State.inReady_of_stage_kept hr rfl rfl rfl
  calc exec (.trunc1 v v h) s
    _ = feed [.byte h, .eos] (decMarker (decRefill v s)) := feed_doubled_dEmpty hr hm hst _
    _ = feed [.eos] (decCountHi h (decMarker (decRefill v s))) :=
      feed_cons_of_decAccept hr2 hm (decAccept_byte_dCntHi rfl)
    _ = .next _ := feed_cons_of_decAccept hr3 hm (decAccept_eos_dCntLo rfl)

end

/-- Settles O27: each unit is its rules in a row, and what they write, step by step, is one next state. -/
theorem wireUnitsAtAUnitBoundary : Obligations.WireUnitsAtAUnitBoundary := by
  intro s hr hm hst v h l
  refine ⟨exec_lit_dEmpty hr hm hst, ?long, ?trunc0, ?trunc1⟩
  case long =>
    rw [exec_long_dEmpty hr hm hst, decMarker_decRefill]
    simp [decCountLo, decCountHi, State.takeByte, State.setRep, State.setChi, State.setSt, countOf, BitVec.add_assoc]
  case trunc0 =>
    rw [exec_trunc0_dEmpty hr hm hst, decMarker_decRefill]
    simp [decTruncated0, State.accept, State.raiseTruncated]
  case trunc1 =>
    rw [exec_trunc1_dEmpty hr hm hst, decMarker_decRefill]
    simp [decTruncated1, decCountHi, State.takeByte, State.accept, State.raiseTruncated, State.setChi, State.setSt,
      BitVec.add_assoc]

end Sys2Proof.Machine
end

section
/-! Laws of the closed forms (R174 to R183): a byte list is its maximal runs, one after the other, and `runs`, `compress`
and `decompress` take the first run apart from the rest. -/

namespace Sys2Proof.Machine

variable {v : Byte} {n : Nat} {rest : List Byte}

/-! ### A byte list by its maximal runs (R174) -/

theorem exists_eq_replicate_append (v : Byte) (bs : List Byte) :
    ∃ n rest, bs = List.replicate n v ++ rest ∧ rest.head? ≠ some v := by
  induction bs with
  | nil => exact ⟨0, [], rfl, nofun⟩
  | cons b bs ih =>
    by_cases hb : b = v
    · obtain ⟨n, rest, rfl, hrest⟩ := ih
      exact ⟨n + 1, rest, by rw [hb, List.replicate_succ, List.cons_append], hrest⟩
    · exact ⟨0, b :: bs, rfl, by simpa using hb⟩

/-- Induction over the maximal runs of a byte list. -/
theorem run_induction {P : List Byte → Prop} (nil : P [])
    (run : ∀ v n rest, 1 ≤ n → rest.head? ≠ some v → P rest → P (List.replicate n v ++ rest)) : ∀ bs, P bs
  | [] => nil
  | v :: bs => by
    obtain ⟨n, rest, hbs, hrest⟩ := exists_eq_replicate_append v bs
    have shorter : rest.length < (v :: bs).length := by simp [hbs]
    have ih : P rest := run_induction nil run rest
    simpa [hbs, List.replicate_succ] using run v (n + 1) rest n.succ_pos hrest ih
  termination_by bs => bs.length

theorem exists_runs_cons (b : Byte) (bs : List Byte) : ∃ m more, runs (b :: bs) = (b, m) :: more := by
  unfold runs
  split
  · exact ⟨1, [], rfl⟩
  · next v m more _ =>
    by_cases hv : v = b
    · exact ⟨m + 1, more, by rw [if_pos hv, hv]⟩
    · exact ⟨1, _, if_neg hv⟩

/-- A byte before a list that begins otherwise is a run of its own. -/
theorem runs_cons_of_ne (h : rest.head? ≠ some v) : runs (v :: rest) = (v, 1) :: runs rest := by
  cases rest with
  | nil => rfl
  | cons b bs =>
    obtain ⟨m, more, hruns⟩ := exists_runs_cons b bs
    have hb : b ≠ v := by simpa using h
    rw [runs, hruns]
    exact if_neg hb

theorem runs_cons_of_eq {m : Nat} {more : List (Byte × Nat)} (h : runs rest = (v, m) :: more) :
    runs (v :: rest) = (v, m + 1) :: more := by
  rw [runs, h]
  exact if_pos rfl

theorem runs_replicate_append (hn : 1 ≤ n) (h : rest.head? ≠ some v) :
    runs (List.replicate n v ++ rest) = (v, n) :: runs rest := by
  induction n, hn using Nat.le_induction with
  | base => exact runs_cons_of_ne h
  | succ n _ ih => exact runs_cons_of_eq ih

/-! ### `compress`, run by run (R177) -/

@[simp] theorem compress_nil : compress [] = [] := rfl

theorem compress_replicate_append (hn : 1 ≤ n) (h : rest.head? ≠ some v) :
    compress (List.replicate n v ++ rest) = runUnits v n ++ compress rest := by
  simp [compress, runs_replicate_append hn h]

theorem compress_replicate (v : Byte) (hn : 1 ≤ n) : compress (List.replicate n v) = runUnits v n := by
  simpa using compress_replicate_append (rest := []) hn nofun

/-- R103: the chunk of a run that goes on past the cap is a unit of its own. -/
theorem compress_replicate_max_append (v : Byte) (bs : List Byte) :
    compress (List.replicate 65535 v ++ v :: bs) = [v, v, 0xFF#8, 0xFF#8] ++ compress (v :: bs) := by
  obtain ⟨n, rest, rfl, hrest⟩ := exists_eq_replicate_append v bs
  have first : v :: (List.replicate n v ++ rest) = List.replicate (n + 1) v ++ rest := rfl
  rw [first, ← List.append_assoc, ← List.replicate_add, compress_replicate_append (by omega) hrest,
    compress_replicate_append n.succ_pos hrest, runUnits_add v n.succ_pos, List.append_assoc]

/-- The frames of a chunk of at most 65535 (R170), as the step rules build them. -/
theorem runUnits_toNat (v : Byte) {c : Count} (h : c ≠ 0#16) : runUnits v c.toNat = (frameBytes v c).toList := by
  have pos : c.toNat ≠ 0 := fun h0 => h (BitVec.eq_of_toNat_eq h0)
  rw [runUnits_of_le v (by omega) (by have := c.isLt; omega), frameList_toNat v h]

/-- A run has the frame of a full chunk before the units of the rest, or is one frame. -/
theorem runUnits_chunk_induction {P : Nat → List Byte → Prop} (v : Byte)
    (chunk : ∀ c : Count, c ≠ 0#16 → P c.toNat (frameBytes v c).toList)
    (split : ∀ n, 1 ≤ n → P n (runUnits v n) → P (65535 + n) ([v, v, 0xFF#8, 0xFF#8] ++ runUnits v n))
    (n : Nat) (hn : 1 ≤ n) : P n (runUnits v n) := by
  induction n using Nat.strong_induction_on with
  | _ n ih =>
    by_cases hle : n ≤ 65535
    · have hc : (BitVec.ofNat 16 n).toNat = n := by rw [BitVec.toNat_ofNat]; omega
      have h0 : BitVec.ofNat 16 n ≠ 0#16 := fun h0 => by rw [h0] at hc; simp at hc; omega
      have := chunk _ h0
      rwa [← runUnits_toNat v h0, hc] at this
    · obtain ⟨m, rfl⟩ : ∃ m, n = 65535 + m := ⟨n - 65535, by omega⟩
      rw [runUnits_add v (by omega)]
      exact split m (by omega) (ih m (by omega) (by omega))

theorem head?_frameBytes (v : Byte) (c : Count) : (frameBytes v c).toList.head? = some v := by
  unfold frameBytes
  split <;> rfl

theorem head?_runUnits (v : Byte) (hn : 1 ≤ n) : (runUnits v n).head? = some v :=
  runUnits_chunk_induction (P := fun _ w => w.head? = some v) v (fun c _ => head?_frameBytes v c)
    (fun _ _ _ => rfl) n hn

/-- What `compress` answers begins as its input does. -/
theorem head?_compress (bs : List Byte) : (compress bs).head? = bs.head? := by
  induction bs using run_induction with
  | nil => rfl
  | run v n rest hn hrest _ =>
    obtain ⟨m, rfl⟩ := Nat.exists_eq_add_of_le' hn
    rw [compress_replicate_append hn hrest, List.head?_append, head?_runUnits v hn]
    rfl

/-! ### `decompress`, unit by unit (R178) -/

/-- `W` parses as one run's units and then as `rest` does: what is emitted for it, and how the stream ends. -/
def ExpandsBefore (w copies rest : List Byte) : Prop :=
  decompress (w ++ rest) = copies ++ decompress rest ∧ truncation (w ++ rest) = truncation rest

theorem expandsBefore_lit (h : rest.head? ≠ some v) : ExpandsBefore [v] [v] rest := by
  cases rest with
  | nil => exact ⟨by simp [decompress, parseUnits_one, parseUnits_nil, WireUnit.expand], by
      simp [truncation, parseUnits_one, parseUnits_nil]⟩
  | cons b bs =>
    have hb : b ≠ v := by simpa using h
    exact ⟨by simp [decompress, parseUnits_lit bs hb, WireUnit.expand], by simp [truncation, parseUnits_lit bs hb]⟩

theorem expandsBefore_long (v h l : Byte) (rest : List Byte) :
    ExpandsBefore [v, v, h, l] (List.replicate (countOf h l).toNat v) rest :=
  ⟨by simp [decompress, parseUnits_long, WireUnit.expand], by simp [truncation, parseUnits_long]⟩

theorem countOf_countHi_countLo (c : Count) : countOf (countHi c) (countLo c) = c := by
  apply BitVec.eq_of_toNat_eq
  have := c.isLt
  rw [countOf_toNat]
  simp only [countHi, countLo, BitVec.extractLsb'_toNat, Nat.shiftRight_eq_div_pow]
  omega

/-- A frame is one unit; a literal is told from a marker by what comes after it. -/
theorem expandsBefore_frameBytes (c : Count) (h : rest.head? ≠ some v) :
    ExpandsBefore (frameBytes v c).toList (List.replicate c.toNat v) rest := by
  unfold frameBytes
  split
  · next hc => exact hc ▸ expandsBefore_lit h
  · have := expandsBefore_long v (countHi c) (countLo c) rest
    rwa [countOf_countHi_countLo] at this

theorem expandsBefore_runUnits (hn : 1 ≤ n) (h : rest.head? ≠ some v) :
    ExpandsBefore (runUnits v n) (List.replicate n v) rest := by
  refine runUnits_chunk_induction (P := fun n w => ExpandsBefore w (List.replicate n v) rest) v
    (fun c _ => expandsBefore_frameBytes c h) (fun n hn ih => ?_) n hn
  obtain ⟨full, fullEnd⟩ := expandsBefore_long v 0xFF#8 0xFF#8 (runUnits v n ++ rest)
  have cap : (countOf 0xFF#8 0xFF#8).toNat = 65535 := by decide
  refine ⟨?_, ?_⟩
  · rw [List.append_assoc, full, ih.1, cap, List.replicate_add, List.append_assoc]
  · rw [List.append_assoc, fullEnd, ih.2]

/-! ### The laws of §8 -/

/-- The round-trip law of the closed forms (R179). -/
theorem decompress_compress (bs : List Byte) :
    decompress (compress bs) = bs ∧ truncation (compress bs) = none := by
  induction bs using run_induction with
  | nil => exact ⟨by simp [decompress, parseUnits_nil], by simp [truncation, parseUnits_nil]⟩
  | run v n rest hn hrest ih =>
    have hhead : (compress rest).head? ≠ some v := by rwa [head?_compress]
    obtain ⟨copies, ends⟩ := expandsBefore_runUnits hn hhead
    rw [compress_replicate_append hn hrest, copies, ends, ih.1]
    exact ⟨rfl, ih.2⟩

/-- The fixed-point law of the closed forms (R180). -/
theorem compress_of_isChain_ne {bs : List Byte} (h : bs.IsChain (· ≠ ·)) : compress bs = bs := by
  induction bs with
  | nil => rfl
  | cons b bs ih =>
    obtain ⟨hhead, htail⟩ := List.isChain_cons.1 h
    have hrest : bs.head? ≠ some b := fun hb => hhead b hb rfl
    calc compress (b :: bs)
      _ = runUnits b 1 ++ compress bs := compress_replicate_append (n := 1) le_rfl hrest
      _ = b :: bs := by rw [runUnits_of_le b le_rfl (by omega), frameList_one, ih htail, List.singleton_append]

end Sys2Proof.Machine
end

section
/-! Whole jobs (R177, R178): what feeding a stream's tokens emits and how the job ends, a token at a time; the encoder's
and the decoder's jobs meet the closed forms. -/

namespace Sys2Proof.Machine

variable {m : Mode} {tk : Token} {ts : List Token} {bs out : List Byte} {s s' t u : State} {P : State → Prop}

/-! ### The counters and the input of a whole stream (R31, R32, R51) -/

/-- `out_count` has grown by as much as the sink, modulo 2^32 (R32). -/
def OutCounted (s t : State) : Prop :=
  t.outCount - s.outCount = BitVec.ofNat 32 t.sink.length - BitVec.ofNat 32 s.sink.length

theorem OutCounted.refl (s : State) : OutCounted s s := (sub_self _).trans (sub_self _).symm

theorem OutCounted.trans (h : OutCounted s t) (h' : OutCounted t u) : OutCounted s u := by
  unfold OutCounted at *
  linear_combination h + h'

theorem outCounted_outStep (s : State) : OutCounted s (outStep s) := by
  simp only [OutCounted, outStep_outCount, outStep_sink, List.length_append, List.length_singleton, BitVec.ofNat_add]
  ring

theorem outCounted_offer (h : offer tk s = .next t) : OutCounted s t := by
  rcases offer_frame h with ⟨-, rfl⟩ | ⟨-, hf, -⟩
  · exact .refl t
  · simp [OutCounted, hf.outCount, hf.sink]

theorem outCounted_feed (h : feed ts s = .next t) : OutCounted s t :=
  feed_induction .refl (fun _ _ _ => .trans) (fun s _ => outCounted_outStep s) (fun _ _ _ => outCounted_offer) h

theorem outCounted_drain (s : State) : OutCounted s s.drain :=
  drain_induction (fun s _ => .refl s) (fun s _ => (outCounted_outStep s).trans) s

theorem State.inReady_drain (ha : s.st.active = true) : s.drain.inReady = true :=
  (State.inReady_iff _).2 ⟨(congrArg Ctrl.active (drain_st s)).trans ha, drain_obuf s, drain_repCnt s⟩

/-- A byte never ends a job. -/
theorem active_of_offer_byte {b : Byte} (ha : s.st.active = true) (h : offer (.byte b) s = .next t) :
    t.st.active = true := by
  rcases offer_cases h with ⟨-, rfl⟩ | ⟨-, -, h⟩ | ⟨-, -, h⟩
  · exact ha
  · rcases encAccept_cases h with ⟨_, _, _, rfl⟩ | ⟨_, _, _, _, _, rfl⟩ | ⟨_, _, _, _, _, rfl⟩ |
      ⟨_, _, _, _, _, rfl⟩ | ⟨⟨⟩, _⟩ | ⟨⟨⟩, _⟩
    exacts [rfl, ha, ha, ha]
  · rcases decAccept_cases h with ⟨_, _, _, rfl⟩ | ⟨_, _, _, _, rfl⟩ | ⟨_, _, _, _, rfl⟩ | ⟨_, _, _, rfl⟩ |
      ⟨_, _, _, rfl⟩ | ⟨⟨⟩, _⟩ | ⟨⟨⟩, _⟩ | ⟨⟨⟩, _⟩ | ⟨⟨⟩, _⟩
    exacts [rfl, rfl, ha, rfl, rfl]

/-- What a job keeps, and takes from the source, when a whole stream is fed to it: every byte and the `End`. -/
structure StreamTaken (bs : List Byte) (s t : State) : Prop where
  mode : t.mode = s.mode
  agenda : t.agenda = s.agenda
  source : t.source = s.source.drop (bs.length + 1)
  inCount : t.inCount = s.inCount + BitVec.ofNat 32 bs.length

theorem acceptFrame_of_offer_drain (ha : s.st.active = true) (h : offer tk s.drain = .next t) :
    AcceptFrame tk s.drain t := by
  rcases offer_frame h with ⟨hoff, -⟩ | ⟨-, hf, -⟩
  · rw [State.inReady_drain ha] at hoff; cases hoff
  · exact hf

theorem streamTaken_of_feed (ha : s.st.active = true) (h : feed (bs.map .byte ++ [.eos]) s = .next t) :
    StreamTaken bs s t := by
  induction bs generalizing s with
  | nil =>
    rw [List.map_nil, List.nil_append, feed_singleton, if_pos ha] at h
    have hf := acceptFrame_of_offer_drain ha h
    exact ⟨by simp [hf.mode], by simp [hf.agenda], by simp [hf.source], by simp [hf.eosNotCounted rfl]⟩
  | cons b bs ih =>
    rw [List.map_cons, List.cons_append, feed_cons _ _ ha, andThen_eq_next] at h
    obtain ⟨s', hoffer, hfeed⟩ := h
    have hf := acceptFrame_of_offer_drain ha hoffer
    have ht := ih (active_of_offer_byte ((congrArg Ctrl.active (drain_st s)).trans ha) hoffer) hfeed
    refine ⟨by simp [ht.mode, hf.mode], by simp [ht.agenda, hf.agenda], by simp [ht.source, hf.source], ?_⟩
    rw [ht.inCount, hf.byteCounted b rfl, drain_inCount, List.length_cons, BitVec.ofNat_add]
    ring

/-! ### What feeding emits, a token at a time -/

/-- The bytes that the output stage holds, in the order they leave (R171). -/
def State.staged (s : State) : List Byte := s.obuf.toList ++ List.replicate s.repCnt.toNat s.repVal

theorem drain_sink_staged (s : State) : s.drain.sink = s.sink ++ s.staged := drain_sink s

/-- Feeding `ts` and draining what is then left emits what the output stage holds and then `out`, and ends in a state as
`P` says. -/
def FeedEmits (ts : List Token) (s : State) (out : List Byte) (P : State → Prop) : Prop :=
  ∃ t, feed ts s = .next t ∧ t.drain.sink = s.drain.sink ++ out ∧ P t.drain

/-- An accepted token, and what the stream after it emits: first the bytes that the token puts into the stage. -/
theorem FeedEmits.cons (ha : s.st.active = true) (h : offer tk s.drain = .next s') (hts : FeedEmits ts s' out P) :
    FeedEmits (tk :: ts) s (s'.staged ++ out) P := by
  obtain ⟨t, hfeed, hsink, hend⟩ := hts
  have hf := acceptFrame_of_offer_drain ha h
  refine ⟨t, by rw [feed_cons _ _ ha, h, andThen_next, hfeed], ?_, hend⟩
  rw [hsink, drain_sink_staged s', hf.sink, List.append_assoc]

/-- The last token of a stream. -/
theorem FeedEmits.last (ha : s.st.active = true) (h : offer tk s.drain = .next s') (hend : P s'.drain) :
    FeedEmits [tk] s s'.staged P := by
  have nothing : FeedEmits [] s' [] P := ⟨s', rfl, (List.append_nil _).symm, hend⟩
  simpa using FeedEmits.cons ha h nothing

/-! ### An encode job (R101 to R106) -/

/-- An encode job with a run open (R40 items 1 and 2). -/
structure RunOpen (s : State) : Prop where
  mode : s.mode = .enc
  st : s.st = .eRun
  runCnt : s.runCnt ≠ 0#16

theorem RunOpen.active (h : RunOpen s) : s.st.active = true := by rw [h.st]; rfl

theorem RunOpen.drain (h : RunOpen s) : RunOpen s.drain :=
  ⟨(drain_mode s).trans h.mode, (drain_st s).trans h.st, by rw [drain_runCnt]; exact h.runCnt⟩

theorem RunOpen.one_le (h : RunOpen s) : 1 ≤ s.runCnt.toNat :=
  Nat.one_le_iff_ne_zero.2 fun h0 => h.runCnt (BitVec.eq_of_toNat_eq h0)

theorem RunOpen.offer_drain (h : RunOpen s) (tk : Token) : offer tk s.drain = encAccept tk s.drain :=
  offer_enc tk (State.inReady_drain h.active) h.drain.mode

/-- A step that frames the run and opens the next one. -/
theorem RunOpen.restart (h : RunOpen s) (q : OutQueue) (b : Byte) : RunOpen ((s.takeByte.setObuf q).setRun b 1#16) :=
  ⟨h.mode, h.st, (by decide : 1#16 ≠ 0#16)⟩

theorem toNat_encExtend_runCnt (h : s.runCnt < Config.maxCount) :
    (encExtend s).runCnt.toNat = s.runCnt.toNat + 1 :=
  BitVec.toNat_add_of_lt (Nat.succ_lt_succ h)

/-- Below the cap one more byte leaves the run open. -/
theorem RunOpen.extend (h : RunOpen s) (hlt : s.runCnt < Config.maxCount) : RunOpen (encExtend s) :=
  ⟨h.mode, h.st, fun h0 => by have := toNat_encExtend_runCnt hlt; simp [h0] at this⟩

/-- A run that ends here is one frame. -/
theorem RunOpen.compress_append (h : RunOpen s) (hbs : bs.head? ≠ some s.runVal) :
    compress (List.replicate s.runCnt.toNat s.runVal ++ bs) = (frameBytes s.runVal s.runCnt).toList ++ compress bs := by
  rw [compress_replicate_append h.one_le hbs, runUnits_toNat _ h.runCnt]

/-- With a run open, a stream emits the encoding of the run's bytes and the stream together. -/
theorem RunOpen.feedEmits (h : RunOpen s) :
    FeedEmits (bs.map .byte ++ [.eos]) s (compress (List.replicate s.runCnt.toNat s.runVal ++ bs)) (·.st = .done) := by
  induction bs generalizing s with
  | nil =>
    have rule := (encAccept_eos_eRun h.drain.st).trans (encFinishRun_of_ne_zero h.drain.runCnt)
    have last := FeedEmits.last (P := (·.st = .done)) h.active ((h.offer_drain _).trans rule) (drain_st _)
    rw [h.compress_append (by simp)]
    simpa [State.staged] using last
  | cons b bs ih =>
    by_cases hb : b = s.drain.runVal
    · by_cases hlt : s.drain.runCnt < Config.maxCount
      · have rule := encAccept_byte_extend h.drain.st hb hlt
        have longer : List.replicate s.runCnt.toNat s.runVal ++ b :: bs =
            List.replicate (encExtend s.drain).runCnt.toNat s.drain.runVal ++ bs := by
          rw [toNat_encExtend_runCnt hlt, hb, drain_runCnt, drain_runVal, List.replicate_succ', List.append_assoc,
            List.singleton_append]
        have nothing : (encExtend s.drain).staged = [] := by simp [State.staged, encExtend]
        rw [longer, ← List.nil_append (compress _), ← nothing]
        exact (ih (h.drain.extend hlt)).cons h.active ((h.offer_drain _).trans rule)
      · have rule := (encAccept_byte_split h.drain.st hb hlt).trans (encSplit_eq s.drain)
        have cap : s.runCnt.toNat = 65535 := by
          rw [drain_runCnt, BitVec.lt_def, show Config.maxCount.toNat = 65535 from rfl] at hlt
          have := s.runCnt.isLt; omega
        have step := (ih (h.drain.restart _ _)).cons h.active ((h.offer_drain _).trans rule)
        rw [cap, hb, drain_runVal, compress_replicate_max_append]
        simpa [State.staged, OutQueue.toList, hb] using step
    · have rule := (encAccept_byte_newRun h.drain.st hb).trans (encNewRun_of_ne_zero b h.drain.runCnt)
      have step := (ih (h.drain.restart _ _)).cons h.active ((h.offer_drain _).trans rule)
      rw [h.compress_append (by simpa using hb)]
      simpa [State.staged] using step

/-- From the start of a job (R201), a stream emits its encoding. -/
theorem feedEmits_encode (bs : List Byte) (s : State) :
    FeedEmits (bs.map .byte ++ [.eos]) (startJob .enc s) (compress bs) (·.st = .done) := by
  have ready : (startJob .enc s).inReady = true := rfl
  have drained : (startJob .enc s).drain = startJob .enc s := drain_of_not_outValid rfl
  cases bs with
  | nil =>
    have rule := (offer_enc .eos ready rfl).trans (encAccept_eos_eEmpty rfl)
    exact FeedEmits.last (P := (·.st = .done)) rfl (drained ▸ rule) (drain_st _)
  | cons b bs =>
    have rule := (offer_enc (.byte b) ready rfl).trans (encAccept_byte_eEmpty rfl)
    have opened : RunOpen (encOpenRun b (startJob .enc s)) := ⟨rfl, rfl, (by decide : 1#16 ≠ 0#16)⟩
    exact opened.feedEmits.cons rfl (drained ▸ rule)

/-! ### A decode job (R131 to R139) -/

/-- How a decode job ends (R178): `none` in DONE, else in ERROR with the number of count bytes seen. -/
def EndsAs (k : Option (BitVec 1)) (t : State) : Prop :=
  match k with
  | none => t.st = .done
  | some i => t.st = .error ∧ t.errCode = .truncated ∧ t.errInfo = i

/-- The bytes `ws` and `End` complete the stream `u`, of which the decoder holds what it has read of the unit under way. -/
def DecodesTo (u ws : List Byte) (s : State) : Prop :=
  FeedEmits (ws.map .byte ++ [.eos]) s (decompress u) (EndsAs (truncation u))

section
variable {c : Ctrl} {b : Byte} {ws w rest u : List Byte}
variable (hm : s.mode = .dec) (hst : s.st = c) (hc : c.active = true)
include hm hst hc

theorem offer_drain_dec (tk : Token) : offer tk s.drain = decAccept tk s.drain :=
  offer_dec tk (State.inReady_drain (hst ▸ hc)) ((drain_mode s).trans hm)

/-- A byte that completes the unit `w`. -/
theorem DecodesTo.unit (rule : decAccept (.byte b) s.drain = .next s') (hw : ExpandsBefore w s'.staged rest)
    (next : DecodesTo rest ws s') : DecodesTo (w ++ rest) (b :: ws) s := by
  unfold DecodesTo
  rw [hw.1, hw.2]
  exact next.cons (hst ▸ hc) ((offer_drain_dec hm hst hc _).trans rule)

/-- A byte that completes no unit. -/
theorem DecodesTo.held (rule : decAccept (.byte b) s.drain = .next s') (hq : s'.staged = [])
    (next : DecodesTo u ws s') : DecodesTo u (b :: ws) s :=
  DecodesTo.unit (w := []) hm hst hc rule ⟨by rw [hq]; rfl, rfl⟩ next

/-- `End`. -/
theorem DecodesTo.eos (rule : decAccept .eos s.drain = .next s') (hout : decompress u = s'.staged)
    (hend : EndsAs (truncation u) s'.drain) : DecodesTo u [] s := by
  unfold DecodesTo
  rw [hout]
  exact FeedEmits.last (hst ▸ hc) ((offer_drain_dec hm hst hc _).trans rule) hend

end

section
variable (hm : s.mode = .dec) (hst : s.st = .dCntHi)
include hm hst

/-- R138. -/
theorem decodesTo_marker : DecodesTo [s.pend, s.pend] [] s := by
  have rule := decAccept_eos_dCntHi ((drain_st s).trans hst)
  refine .eos hm hst rfl rule ?out ?error
  case out => simp [State.staged, decTruncated0, decompress, parseUnits_marker]
  case error => simp [EndsAs, truncation, parseUnits_marker, decTruncated0]

/-- R134 and R139. -/
theorem decodesTo_high (h : Byte) : DecodesTo [s.pend, s.pend, h] [h] s := by
  have high := decAccept_byte_dCntHi (b := h) ((drain_st s).trans hst)
  have rule := decAccept_eos_dCntLo (drain_st (decCountHi h s.drain))
  refine .held hm hst rfl high ?held (.eos ((drain_mode s).trans hm) rfl rfl rule ?out ?error)
  case held => simp [State.staged, decCountHi]
  case out => simp [State.staged, decTruncated1, decompress, parseUnits_high]
  case error => simp [EndsAs, truncation, parseUnits_high, decTruncated1]

/-- R134 and R135: the unit is complete, and the rest is read from a unit boundary. -/
theorem decodesTo_long (h l : Byte) {more : List Byte}
    (next : ∀ t : State, t.mode = .dec → t.st = .dEmpty → DecodesTo more more t) :
    DecodesTo (s.pend :: s.pend :: h :: l :: more) (h :: l :: more) s := by
  have high := decAccept_byte_dCntHi (b := h) ((drain_st s).trans hst)
  have low := decAccept_byte_dCntLo (b := l) (drain_st (decCountHi h s.drain))
  have hm' : (decCountHi h s.drain).mode = .dec := (drain_mode s).trans hm
  have copies : (decCountLo l (decCountHi h s.drain).drain).staged = List.replicate (countOf h l).toNat s.pend := by
    simp [State.staged, decCountLo, decCountHi]
  refine .held hm hst rfl high ?held (.unit (w := [s.pend, s.pend, h, l]) hm' rfl rfl low ?unit ?next)
  case held => simp [State.staged, decCountHi]
  case unit => exact copies ▸ expandsBefore_long s.pend h l more
  case next => exact next _ ((drain_mode _).trans hm') rfl

end

/-- A decode job reads a stream from a unit boundary, or with the stream's first byte as its lookahead. -/
theorem decodesTo_dEmpty_dHave1 : ∀ (ws : List Byte) (s : State), s.mode = .dec →
    (s.st = .dEmpty → DecodesTo ws ws s) ∧ (s.st = .dHave1 → DecodesTo (s.pend :: ws) ws s)
  | [], s, hm => by
    refine ⟨fun hst => ?boundary, fun hst => ?lookahead⟩
    case boundary =>
      refine .eos hm hst rfl (decAccept_eos_dEmpty ((drain_st s).trans hst)) ?_ (drain_st _)
      simp [State.staged, decFinish, decompress, parseUnits_nil]
    case lookahead =>
      refine .eos hm hst rfl (decAccept_eos_dHave1 ((drain_st s).trans hst)) ?_ (drain_st _)
      simp [State.staged, decFlush, decompress, parseUnits_one, WireUnit.expand]
  | w :: ws, s, hm => by
    have hm' : s.drain.mode = .dec := (drain_mode s).trans hm
    refine ⟨fun hst => ?boundary, fun hst => ?lookahead⟩
    case boundary =>
      have next := (decodesTo_dEmpty_dHave1 ws (decRefill w s.drain) hm').2 rfl
      exact .held hm hst rfl (decAccept_byte_dEmpty ((drain_st s).trans hst)) (by simp [State.staged, decRefill]) next
    case lookahead =>
      have hst' : s.drain.st = .dHave1 := (drain_st s).trans hst
      by_cases hw : w = s.drain.pend
      · have hw' : w = (decMarker s.drain).pend := hw
        have hp : s.pend = (decMarker s.drain).pend := (drain_pend s).symm
        refine .held hm hst rfl (decAccept_byte_marker hst' hw) (by simp [State.staged, decMarker]) ?_
        rw [hw', hp]
        match ws with
        | [] => exact decodesTo_marker (s := decMarker s.drain) hm' rfl
        | [h] => exact decodesTo_high (s := decMarker s.drain) hm' rfl h
        | h :: l :: more =>
          exact decodesTo_long (s := decMarker s.drain) hm' rfl h l fun t htm => (decodesTo_dEmpty_dHave1 more t htm).1
      · have literal := expandsBefore_lit (v := s.pend) (rest := w :: ws) (by simpa using hw)
        have next := (decodesTo_dEmpty_dHave1 ws (decLiteral w s.drain) hm').2 hst'
        have copy : (decLiteral w s.drain).staged = [s.pend] := by simp [State.staged, decLiteral]
        exact .unit (w := [s.pend]) hm hst rfl (decAccept_byte_literal hst' hw) (copy ▸ literal) next

/-! ### Whole jobs -/

/-- What a whole job of a mode on a stream comes to, when it emits `out`. -/
structure JobEnds (m : Mode) (bs out : List Byte) (s t : State) : Prop where
  mode : t.mode = m
  drained : t.outValid = false
  sink : t.sink = s.sink ++ out
  inCount : t.inCount = BitVec.ofNat 32 bs.length
  outCount : t.outCount = BitVec.ofNat 32 out.length
  source : t.source = s.source.drop (bs.length + 1)
  agenda : t.agenda = s.agenda

theorem exec_startInstr (m : Mode) (h : s.busy = false) : exec (startInstr m) s = .next (startJob m s) := by
  have opens : start m s = startJob m s := by simp [start, h]
  cases m <;> exact congrArg Host.Outcome.next opens

theorem job_of_feedEmits (h : s.busy = false) (hfeed : FeedEmits (bs.map .byte ++ [.eos]) (startJob m s) out P) :
    ∃ t, job m bs s = .next t ∧ JobEnds m bs out s t ∧ P t := by
  obtain ⟨t, ht, hsink, hend⟩ := hfeed
  have active : (startJob m s).st.active = true := by cases m <;> rfl
  have drained : (startJob m s).drain = startJob m s := drain_of_not_outValid rfl
  have taken := streamTaken_of_feed active ht
  have hsink' : t.drain.sink = s.sink ++ out := by rw [hsink, drained]; rfl
  have counted : OutCounted (startJob m s) t.drain := (outCounted_feed ht).trans (outCounted_drain t)
  have hout : t.drain.outCount = BitVec.ofNat 32 out.length := by
    have : t.drain.outCount = BitVec.ofNat 32 t.drain.sink.length - BitVec.ofNat 32 s.sink.length :=
      (BitVec.sub_zero _).symm.trans counted
    rw [hsink', List.length_append, BitVec.ofNat_add] at this
    linear_combination this
  refine ⟨t.drain, ?_, ⟨?_, drain_outValid t, hsink', ?_, hout, ?_, ?_⟩, hend⟩
  · rw [job, exec_startInstr m h, andThen_next, ht, andThen_next]
  · rw [drain_mode, taken.mode]; rfl
  · rw [drain_inCount, taken.inCount]; exact BitVec.zero_add _
  · rw [drain_source, taken.source]; rfl
  · rw [drain_agenda, taken.agenda]; rfl

theorem job_enc (bs : List Byte) (h : s.busy = false) :
    ∃ t, job .enc bs s = .next t ∧ JobEnds .enc bs (compress bs) s t ∧ t.st = .done :=
  job_of_feedEmits h (feedEmits_encode bs s)

theorem job_dec (ws : List Byte) (h : s.busy = false) :
    ∃ t, job .dec ws s = .next t ∧ JobEnds .dec ws (decompress ws) s t ∧ EndsAs (truncation ws) t :=
  job_of_feedEmits h ((decodesTo_dEmpty_dHave1 ws (startJob .dec s) rfl).1 rfl)

end Sys2Proof.Machine
end

section
/-! The framer's statements: the unit builder and the OUT step (R170, R172), the laws of whole jobs (R177 to R183), and
the size bounds of the closed forms (R182). -/

namespace Sys2Proof.Machine

/-! ### The unit builder and the output stage (R170, R172) -/

/-- Settles O25: outside its domain `frame` answers nothing, inside it the literal or the long-form unit. -/
theorem frameBuildsTheUnit : Obligations.FrameBuildsTheUnit := by
  refine fun v => ⟨rfl, fun c hc => ⟨frameBytes v c, if_neg hc, ?_⟩⟩
  by_cases h1 : c = 1#16
  · simp [frameBytes, h1, OutQueue.toList]
  · simp [frameBytes, h1, OutQueue.toList, countHi, countLo]

/-- What follows from an empty output stage (R33, R35, R36). -/
theorem State.flags_of_not_outValid {t : State} (h : t.outValid = false) :
    t.inReady = t.st.active ∧ (t.st = .done → t.done = true ∧ t.busy = false) := by
  refine ⟨by simp [State.inReady_eq, h], fun hst => ⟨?_, ?_⟩⟩
  · rw [State.done_of_st hst, h]; rfl
  · rw [State.busy_of_not_active (by rw [hst]; rfl), h]

/-- Settles O26: the OUT step takes its byte from `obuf`, or from the copies of `rep_val` when `obuf` is `[]`. -/
theorem outEmitsOneByte : Obligations.OutEmitsOneByte := by
  intro s hv
  have hexec : exec .out s = .next (outStep s) := if_pos hv
  have emptied := State.flags_of_not_outValid (t := outStep s)
  refine ⟨outStep s, hexec, ?_⟩
  rcases outStep_cases s with ⟨hq, hout⟩ | ⟨hq, hout⟩
  · have head := OutQueue.toList_of_not_isEmpty s.repVal hq
    refine ⟨by rw [hout], fun a more hlist => ?_, fun hlist => ?_, emptied⟩
    · obtain ⟨ha, hmore⟩ := List.cons.inj (hlist.symm.trans head)
      rw [hout, ha, hmore]
      exact ⟨rfl, rfl, rfl⟩
    · rw [hlist] at head; cases head
  · refine ⟨by rw [hout], fun a more hlist => ?_, fun _ => ?_, emptied⟩
    · rw [hq] at hlist; cases hlist
    · have hp := pendingOut_outStep hv
      rw [hout] at hp ⊢
      simp only [State.pendingOut, hq] at hp
      exact ⟨rfl, rfl, by simpa using hp⟩

/-! ### Whole jobs (R177 to R181, R183) -/

section
variable {s t : State} {m : Mode} {bs out : List Byte}

theorem JobEnds.done (h : JobEnds m bs out s t) (hst : t.st = .done) : t.done = true :=
  ((State.flags_of_not_outValid h.drained).2 hst).1

/-- An ended job is not busy, so that the next one can start. -/
theorem JobEnds.not_busy (h : JobEnds m bs out s t) (hst : t.st = .done) : t.busy = false :=
  ((State.flags_of_not_outValid h.drained).2 hst).2

theorem State.error_of_done (hst : t.st = .done) : t.error = false := by rw [State.error, hst]; rfl

end

/-- Settles O54: the run that is open stands before the bytes still to come, and each rule of the encoder emits what the
closed form says of the two together (`RunOpen.feedEmits`). -/
theorem encodeJobEmitsCompress : Obligations.EncodeJobEmitsCompress := by
  intro bs s h
  obtain ⟨t, hjob, ends, hst⟩ := job_enc bs h
  exact ⟨t, hjob, ends.done hst, ends.mode, ends.sink, ends.inCount, ends.outCount, ends.source, ends.agenda⟩

/-- Settles O55: from a unit boundary, or with the lookahead held, each rule of the decoder emits what the parse of the
stream says (`decodesTo_dEmpty_dHave1`). -/
theorem decodeJobEmitsDecompress : Obligations.DecodeJobEmitsDecompress := by
  intro ws s h
  obtain ⟨t, hjob, ends, hend⟩ := job_dec ws h
  refine ⟨t, hjob, ends.mode, ends.sink, ends.inCount, ends.outCount, ends.source, ends.agenda, ?_⟩
  cases hk : truncation ws with
  | none =>
    rw [hk] at hend
    exact ⟨ends.done hend, State.error_of_done hend⟩
  | some k =>
    rw [hk] at hend
    obtain ⟨hst, hcode, hinfo⟩ := hend
    exact ⟨by simp [State.error, hst], by simp [State.done, hst], hcode, hinfo⟩

/-- A decode job on the encoding of a byte list gives the list back. -/
theorem job_dec_compress (bs : List Byte) {s : State} (h : s.busy = false) :
    ∃ u, job .dec (compress bs) s = .next u ∧ u.sink = s.sink ++ bs ∧ u.done = true ∧ u.error = false := by
  obtain ⟨u, hjob, ends, hend⟩ := job_dec (compress bs) h
  obtain ⟨back, whole⟩ := decompress_compress bs
  rw [back] at ends
  rw [whole] at hend
  exact ⟨u, hjob, ends.sink, ends.done hend, State.error_of_done hend⟩

/-- Both jobs, one after the other, on a byte list whose encoding is `w`. -/
theorem job_round_trip {bs w : List Byte} (hw : compress bs = w) {s : State} (h : s.busy = false) :
    ∃ t u, job .enc bs s = .next t ∧ t.sink = s.sink ++ w ∧ job .dec w t = .next u ∧ u.sink = t.sink ++ bs ∧
      u.done = true ∧ u.error = false := by
  subst hw
  obtain ⟨t, henc, ends, hst⟩ := job_enc bs h
  obtain ⟨u, hdec, back⟩ := job_dec_compress bs (ends.not_busy hst)
  exact ⟨t, u, henc, ends.sink, hdec, back⟩

/-- Settles O56: the two jobs by their closed forms, and those by induction over the runs (`decompress_compress`). -/
theorem roundTripGivesTheInputBack : Obligations.RoundTripGivesTheInputBack :=
  fun bs _ h => ⟨compress bs, job_round_trip rfl h⟩

/-- Settles O57: without equal neighbours every run is a literal, so the list is its own encoding, and decoding it is
decoding its encoding. -/
theorem noRepeatsIsAFixedPoint : Obligations.NoRepeatsIsAFixedPoint := by
  intro bs s h hne
  have fixed := compress_of_isChain_ne hne
  obtain ⟨t, henc, ends, -⟩ := job_enc bs h
  obtain ⟨u, hdec, hsink, hdone, -⟩ := job_dec_compress bs h
  rw [fixed] at ends hdec
  exact ⟨t, u, henc, ends.sink, hdec, hsink, hdone⟩

/-- Settles O58: the empty stream is its own encoding. -/
theorem emptyStreamStaysEmpty : Obligations.EmptyStreamStaysEmpty := by
  intro s h
  obtain ⟨t, henc, ends, hst⟩ := job_enc [] h
  obtain ⟨u, hdec, hsink, hdone, -⟩ := job_dec_compress [] h
  exact ⟨⟨t, henc, ends.sink.trans (List.append_nil _), ends.done hst⟩,
    ⟨u, hdec, hsink.trans (List.append_nil _), hdone⟩⟩

/-- Settles O59: a run of 65535 is one full chunk, a run of 65536 a full chunk and a literal. -/
theorem runsAtTheCountBoundary : Obligations.RunsAtTheCountBoundary := by
  intro v s h
  have full : compress (List.replicate 65535 v) = [v, v, 0xFF#8, 0xFF#8] := by
    rw [compress_replicate v (by omega), runUnits_of_le v (by omega) le_rfl, frameList_max]
  have past : compress (List.replicate (65535 + 1) v) = [v, v, 0xFF#8, 0xFF#8, v] := by
    rw [compress_replicate v (by omega), runUnits_add v le_rfl, runUnits_of_le v le_rfl (by omega), frameList_one]
    rfl
  obtain ⟨t, u, henc, ht, hdec, hu, hdone, -⟩ := job_round_trip full h
  obtain ⟨t', u', henc', ht', hdec', hu', hdone', -⟩ := job_round_trip past h
  exact ⟨⟨t, u, henc, ht, hdec, hu, hdone⟩, ⟨t', u', henc', ht', hdec', hu', hdone'⟩⟩

/-! ### Size bounds (R182) -/

/-- The length of the frame of one chunk. -/
theorem length_frameList (v : Byte) {n : Nat} (h1 : 1 ≤ n) (h2 : n ≤ 65535) :
    (frameList v n).length = if n = 1 then 1 else 4 := by
  have hn : (BitVec.ofNat 16 n).toNat = n := by rw [BitVec.toNat_ofNat]; omega
  have h0 : BitVec.ofNat 16 n ≠ 0#16 := fun h0 => by rw [h0] at hn; simp at hn; omega
  have one : BitVec.ofNat 16 n = 1#16 ↔ n = 1 := by rw [← BitVec.toNat_inj, hn]; simp
  have hlen := congrArg List.length (frameList_toNat v h0)
  rw [hn, OutQueue.length_toList, frameBytes_length] at hlen
  simpa [one] using hlen

theorem length_runUnits (v : Byte) {n : Nat} (hn : 1 ≤ n) :
    (runUnits v n).length = 4 * ((n - 1) / 65535) + if n - 65535 * ((n - 1) / 65535) = 1 then 1 else 4 := by
  have last := length_frameList v (n := n - 65535 * ((n - 1) / 65535)) (by omega) (by omega)
  simp [runUnits, chunks, List.flatMap_append, List.flatMap_replicate, last, frameList_max, mul_comm]

/-- One run takes at most twice its length, and exactly twice only at length 2. -/
theorem length_runUnits_le (v : Byte) {n : Nat} (hn : 1 ≤ n) :
    (runUnits v n).length ≤ 2 * n ∧ ((runUnits v n).length = 2 * n ↔ n = 2) := by
  rw [length_runUnits v hn]
  split <;> omega

/-- The lengths of the runs add up, and so do those of their encodings. -/
theorem length_compress_le (bs : List Byte) :
    (compress bs).length ≤ 2 * bs.length ∧ ((compress bs).length = 2 * bs.length ↔ ∀ r ∈ runs bs, r.2 = 2) := by
  induction bs using run_induction with
  | nil => exact ⟨le_rfl, by simp [runs]⟩
  | run v n rest hn hrest ih =>
    obtain ⟨hle, heq⟩ := length_runUnits_le v hn
    obtain ⟨restLe, restEq⟩ := ih
    rw [compress_replicate_append hn hrest, runs_replicate_append hn hrest, List.forall_mem_cons, ← restEq, ← heq]
    simp only [List.length_append, List.length_replicate]
    omega

/-- A literal of 1 byte gives 1 byte, a long-form unit of 4 bytes at most 65535, a truncated one none. -/
theorem length_decompress_le (ws : List Byte) : 4 * (decompress ws).length ≤ 65535 * ws.length + 4 * ws.length := by
  induction ws using parseUnits.induct with
  | case1 => simp [decompress, parseUnits_nil]
  | case2 v => simp [decompress, parseUnits_one, WireUnit.expand]
  | case3 v => simp [decompress, parseUnits_marker]
  | case4 v h => simp [decompress, parseUnits_high]
  | case5 v h l more ih =>
    have := (countOf h l).isLt
    have emitted : decompress (v :: v :: h :: l :: more) = List.replicate (countOf h l).toNat v ++ decompress more :=
      (expandsBefore_long v h l more).1
    simp only [emitted, List.length_append, List.length_replicate, List.length_cons]
    omega
  | case6 v w rest hw ih =>
    have emitted : decompress (v :: w :: rest) = [v] ++ decompress (w :: rest) :=
      (expandsBefore_lit (by simpa using hw)).1
    simp only [emitted, List.length_append, List.length_cons, List.length_nil] at ih ⊢
    omega

/-- Settles O60: one run by its chunks, a byte list by its runs, a wire by its units. -/
theorem sizeBounds : Obligations.SizeBounds :=
  ⟨fun v _ hn => length_runUnits v hn, length_compress_le, length_decompress_le⟩

end Sys2Proof.Machine
end

section
/-! The control operations' statements (R200 to R202): the registers that Reset and an accepted Start write, beside the
streams and the slots that stay, and the states in which Start is accepted. -/

namespace Sys2Proof.Machine

variable {s : State}

/-! ### What Reset and an accepted Start write (R200, R201) -/

/-- The registers of `r`, with the streams and the slots to come of `s`. -/
def State.withStreamsOf (r s : State) : State := { r with source := s.source, sink := s.sink, agenda := s.agenda }

/-- STATUS reads registers only (R38). -/
@[simp] theorem State.withStreamsOf_status (r s : State) : (r.withStreamsOf s).status = r.status := rfl

theorem resetCore_eq (s : State) : resetCore s = State.reset.withStreamsOf s := rfl

theorem startJob_eq (m : Mode) (s : State) :
    startJob m s = { State.reset with st := startState m, mode := m }.withStreamsOf s := rfl

theorem resetCore_status (s : State) : (resetCore s).status = 0x0000#16 := by
  rw [resetCore_eq, State.withStreamsOf_status]
  decide

theorem startJob_enc_status (s : State) : (startJob .enc s).status = 0x1021#16 := by
  rw [startJob_eq, State.withStreamsOf_status]
  decide

theorem startJob_dec_status (s : State) : (startJob .dec s).status = 0x1033#16 := by
  rw [startJob_eq, State.withStreamsOf_status]
  decide

/-- Settles O8: what RESET writes does not depend on the state; the streams and the slots stay. -/
theorem resetWritesEveryRegister : Obligations.ResetWritesEveryRegister :=
  fun x s => ⟨decodeCtl_reset x, resetCore s, rfl, resetCore_eq s, resetCore_status s, rfl, rfl⟩

/-! ### When Start is accepted (R35, R201, R202) -/

theorem Ctrl.active_eq_false_iff (c : Ctrl) : c.active = false ↔ c = .idle ∨ c = .error ∨ c = .done := by
  cases c <;> decide

theorem State.busy_eq_false_iff_st (s : State) :
    s.busy = false ↔ (s.st = .idle ∨ s.st = .error ∨ s.st = .done) ∧ s.outValid = false := by
  rw [State.busy, Bool.or_eq_false_iff, Ctrl.active_eq_false_iff]

theorem exec_startInstr_of_busy (m : Mode) (h : s.busy = true) : exec (startInstr m) s = .next s := by
  have ignored : start m s = s := if_pos h
  cases m <;> exact congrArg Host.Outcome.next ignored

/-- Settles O9: START is ignored while busy, and otherwise opens its mode's job on reset registers. -/
theorem startOpensAJob : Obligations.StartOpensAJob := by
  refine ⟨by decide, by decide, State.busy_eq_false_iff_st,
    fun s => ⟨fun busy => ?ignored, fun free => ⟨?enc, ?dec⟩⟩⟩
  case ignored => exact ⟨exec_startInstr_of_busy .enc busy, exec_startInstr_of_busy .dec busy⟩
  case enc => exact ⟨startJob .enc s, exec_startInstr .enc free, startJob_eq .enc s, startJob_enc_status s⟩
  case dec => exact ⟨startJob .dec s, exec_startInstr .dec free, startJob_eq .dec s, startJob_dec_status s⟩

end Sys2Proof.Machine
end

section
/-! The one exception and what ends it (R230 to R235, R242): the tokens that raise TruncatedStream, and what an
instruction does in a state where no job accepts tokens. -/

namespace Sys2Proof.Machine

variable {i : Instr} {tk : Token} {ts : List Token} {s t : State}

/-! ### What raises (R230 to R232) -/

/-- In DEC mode only `End` after the doubled marker is accepted into ERROR (R138, R139). -/
theorem decAccept_raises (h : decAccept tk s = .next t) (ht : t.st = .error) (hs : s.st ≠ .error) :
    tk = .eos ∧ t.errCode = .truncated ∧ (s.st = .dCntHi ∧ t.errInfo = 0#1 ∨ s.st = .dCntLo ∧ t.errInfo = 1#1) := by
  rcases decAccept_cases h with ⟨_, -, -, rfl⟩ | ⟨_, -, -, -, rfl⟩ | ⟨_, -, -, -, rfl⟩ | ⟨_, -, -, rfl⟩ |
    ⟨_, -, -, rfl⟩ | ⟨-, -, rfl⟩ | ⟨-, -, rfl⟩ | ⟨heos, hst, rfl⟩ | ⟨heos, hst, rfl⟩
  · cases ht
  · cases ht
  · exact absurd ht hs -- R132 keeps the control state
  · cases ht
  · cases ht
  · cases ht
  · cases ht
  · exact ⟨heos, rfl, .inl ⟨hst, rfl⟩⟩
  · exact ⟨heos, rfl, .inr ⟨hst, rfl⟩⟩

theorem offer_raises (h : offer tk s = .next t) (ht : t.st = .error) (hs : s.st ≠ .error) :
    t.errCode = .truncated ∧ tk = .eos ∧ s.mode = .dec ∧ s.inReady = true ∧
      (s.st = .dCntHi ∧ t.errInfo = 0#1 ∨ s.st = .dCntLo ∧ t.errInfo = 1#1) := by
  rcases offer_cases h with ⟨-, rfl⟩ | ⟨-, -, ha⟩ | ⟨hr, hm, ha⟩
  · exact absurd ht hs
  · exact absurd ht (encAccept_frame ha).2.notRaised
  · obtain ⟨heos, hcode, hinfo⟩ := decAccept_raises ha ht hs
    exact ⟨hcode, heos, hm, hr, hinfo⟩

/-- Feeding stops at the token that raises, and OUT steps do not raise. -/
theorem feed_raises (h : feed ts s = .next t) (ht : t.st = .error) (hs : s.st ≠ .error) :
    t.errCode = .truncated ∧ .eos ∈ ts := by
  induction ts generalizing s with
  | nil => cases h; exact absurd ht hs
  | cons tk ts ih =>
    cases ha : s.st.active with
    | false =>
      rw [feed_of_not_active _ ha] at h
      cases h
      exact absurd ht hs
    | true =>
      rw [feed_cons tk ts ha, andThen_eq_next] at h
      obtain ⟨u, hoffer, hfeed⟩ := h
      by_cases hu : u.st = .error
      · obtain ⟨hcode, heos, -⟩ := offer_raises hoffer hu (by rwa [drain_st])
        rw [feed_of_not_active ts (by rw [hu]; rfl)] at hfeed
        cases hfeed
        exact ⟨hcode, heos ▸ List.mem_cons_self⟩
      · exact (ih hfeed hu).imp_right (List.mem_cons_of_mem tk)

theorem st_eq_error_of_start (m : Mode) (ht : (start m s).st = .error) : s.st = .error := by
  unfold start at ht
  split at ht
  · exact ht
  · cases m <;> cases ht

/-- Settles O47: a token row raises as its offer does, a wire unit as the feeding of its tokens, which must hold an
`End`; of the rest OUT and NOP keep the control state, and Reset and Start write others. -/
theorem onlyTruncationRaises : Obligations.OnlyTruncationRaises := by
  intro i s t h ht hs
  cases htok : i.token with
  | some tk =>
    obtain ⟨hcode, rfl, hraise⟩ := offer_raises (exec_eq_offer s i htok ▸ h) ht hs
    exact ⟨hcode, .inl ⟨rfl, hraise⟩⟩
  | none =>
    cases i with
    | reset => cases h; cases ht
    | startEnc | startDec => cases h; exact absurd (st_eq_error_of_start _ ht) hs
    | nop => cases h; exact absurd ht hs
    | out =>
      rcases exec_out_eq_next h with ⟨-, rfl⟩ | ⟨-, rfl⟩
      · exact absurd (outStep_st s ▸ ht) hs
      · exact absurd ht hs
    | lit | long => simpa [unitTokens] using (feed_raises h ht hs).2
    | trunc0 v v2 => exact ⟨(feed_raises h ht hs).1, .inr (.inl ⟨v, v2, rfl⟩)⟩
    | trunc1 v v2 hi => exact ⟨(feed_raises h ht hs).1, .inr (.inr ⟨v, v2, hi, rfl⟩)⟩
    | _ => cases htok

/-! ### Where no job accepts tokens (R235, R242) -/

/-- Where no job accepts tokens, an instruction is Reset, a Start or an OUT, or it changes nothing. -/
theorem exec_of_not_active (ha : s.st.active = false) (i : Instr) :
    (∃ x, i = .reset x) ∨ (∃ m, i = startInstr m) ∨ i = .out ∨ exec i s = .next s := by
  obtain ⟨htoken, hunit, -⟩ := whatIsNotEnabledChangesNothing i s
  cases i with
  | reset x => exact .inl ⟨x, rfl⟩
  | startEnc => exact .inr (.inl ⟨.enc, rfl⟩)
  | startDec => exact .inr (.inl ⟨.dec, rfl⟩)
  | out => exact .inr (.inr (.inl rfl))
  | nop => exact .inr (.inr (.inr rfl))
  | lit | long | trunc0 | trunc1 => exact .inr (.inr (.inr (hunit rfl ha)))
  | _ => exact .inr (.inr (.inr (htoken rfl (by simp [State.inReady, ha]))))

theorem startInstr_eq (m : Mode) : startInstr m = .startEnc ∨ startInstr m = .startDec := by
  cases m <;> simp [startInstr]

/-- Settles O48: ERROR accepts no tokens, an OUT keeps the control state, and what is left, Reset or a Start that is not
ignored, clears the job's registers. -/
theorem errorIsLeftOnlyByStartOrReset : Obligations.ErrorIsLeftOnlyByStartOrReset := by
  intro i s t h hs ht
  have ha : s.st.active = false := by rw [hs]; rfl
  rcases exec_of_not_active ha i with ⟨x, rfl⟩ | ⟨m, rfl⟩ | rfl | hkept
  · cases h
    exact ⟨.inl ⟨x, rfl⟩, rfl, rfl⟩
  · cases hb : s.busy with
    | true =>
      cases (exec_startInstr_of_busy m hb).symm.trans h
      exact absurd hs ht
    | false =>
      cases (exec_startInstr m hb).symm.trans h
      exact ⟨.inr ⟨startInstr_eq m, rfl⟩, rfl, rfl⟩
  · rcases exec_out_eq_next h with ⟨-, rfl⟩ | ⟨-, rfl⟩
    · exact absurd ((outStep_st s).trans hs) ht
    · exact absurd hs ht
  · cases hkept.symm.trans h
    exact absurd hs ht

/-- Settles O49: a state that is not busy accepts no tokens and has no byte to take. -/
theorem quiescentStatesAreKept : Obligations.QuiescentStatesAreKept := by
  intro i s hb hreset henc hdec
  obtain ⟨ha, hstage⟩ := s.busy_eq_false_iff.1 hb
  rcases exec_of_not_active ha i with ⟨x, rfl⟩ | ⟨m, rfl⟩ | rfl | hkept
  · exact absurd rfl (hreset x)
  · exact ((startInstr_eq m).elim henc hdec).elim
  · exact (whatIsNotEnabledChangesNothing .out s).2.2 (s.outValid_eq_false_iff.2 hstage)
  · exact hkept

end Sys2Proof.Machine
end

section
/-! The slot of a whole cycle (R236, R237; log 11): which of the control word, the offer and the take it presents. -/

namespace Sys2Proof.Machine

variable {s : State} {w : ControlWord} {offered take : Bool}

/-! ### What the slot presents -/

theorem State.busy_of_inReady (h : s.inReady = true) : s.busy = true := by
  simp [State.busy, (s.inReady_iff.1 h).1]

theorem State.busy_of_outValid (h : s.outValid = true) : s.busy = true := by
  simp [State.busy, h]

theorem fetch_together_of_rst (hrst : w.getLsbD 0 = true) : fetch (.together w offered take) s = some (decodeCtl w) :=
  if_pos hrst

/-- A Start is effective where the core is not busy (R202). -/
theorem fetch_together_of_start (hrst : w.getLsbD 0 = false) (hstart : w.getLsbD 1 = true) (hb : s.busy = false) :
    fetch (.together w offered take) s = some (decodeCtl w) := by
  simp only [fetch, arbitrate, hrst, hstart, hb]
  rfl

/-- While the core is busy, no Start is effective: the offer counts where it is enabled, else the take, else the control
word. -/
theorem fetch_together_of_busy (hrst : w.getLsbD 0 = false) (hb : s.busy = true) :
    fetch (.together w offered take) s =
      if offered && s.inReady then fetchToken s
      else if take && s.outValid then some .out
      else some (decodeCtl w) := by
  simp only [fetch, arbitrate, hrst, hb, Bool.not_true, Bool.and_false, Bool.false_eq_true, if_false]

theorem fetch_together_of_inReady (hrst : w.getLsbD 0 = false) (hr : s.inReady = true) :
    fetch (.together w true take) s = fetchToken s := by
  rw [fetch_together_of_busy hrst (State.busy_of_inReady hr), hr]
  rfl

theorem fetch_together_of_outValid (hrst : w.getLsbD 0 = false) (hv : s.outValid = true) :
    fetch (.together w offered true) s = some .out := by
  rw [fetch_together_of_busy hrst (State.busy_of_outValid hv), State.inReady_of_outValid hv, hv, Bool.and_false]
  rfl

theorem fetch_together_of_none_enabled (hrst : w.getLsbD 0 = false) (hb : s.busy = true)
    (hin : s.inReady = true → offered = false) (hout : s.outValid = true → take = false) :
    fetch (.together w offered take) s = some (decodeCtl w) := by
  have noOffer : ¬ (offered && s.inReady) = true := fun h => by simp [hin (Bool.and_elim_right h)] at h
  have noTake : ¬ (take && s.outValid) = true := fun h => by simp [hout (Bool.and_elim_right h)] at h
  rw [fetch_together_of_busy hrst hb, if_neg noOffer, if_neg noTake]

/-! ### The control word of a cycle -/

theorem decodeCtl_of_rst (hrst : w.getLsbD 0 = true) : decodeCtl w = .reset (w.extractLsb' 1 2) :=
  if_pos hrst

/-- Without `rst` a control word is a Start or NOP (R71). -/
theorem decodeCtl_of_not_rst (hrst : w.getLsbD 0 = false) :
    (∃ m, decodeCtl w = startInstr m) ∨ ∃ x, decodeCtl w = .nop x := by
  simp only [decodeCtl, hrst]
  cases w.getLsbD 1
  · exact .inr ⟨_, rfl⟩
  · cases w.getLsbD 2
    · exact .inl ⟨.enc, rfl⟩
    · exact .inl ⟨.dec, rfl⟩

/-- While the core is busy, a control word without `rst` has no effect (R71, R202). -/
theorem exec_decodeCtl_of_busy (hrst : w.getLsbD 0 = false) (hb : s.busy = true) : exec (decodeCtl w) s = .next s := by
  rcases decodeCtl_of_not_rst hrst with ⟨m, hm⟩ | ⟨x, hx⟩
  · rw [hm, exec_startInstr_of_busy m hb]
  · rw [hx]
    rfl

/-! ### The statements -/

/-- Settles O39: the slot presents the control word, which is a RESET, and Reset leaves both streams. -/
theorem resetWinsItsCycle : Obligations.ResetWinsItsCycle := by
  intro s more w offered take ha hrst
  have hstep : step s = exec (.reset (w.extractLsb' 1 2)) (s.setAgenda more) :=
    decodeCtl_of_rst hrst ▸ step_of_fetch_some ha (fetch_together_of_rst hrst)
  exact ⟨hstep, resetCore (s.setAgenda more), hstep, rfl, rfl, rfl⟩

/-- Settles O40: an effective Start needs `busy = 0` and In and Out need `busy = 1`, In with nothing pending and Out
with a byte pending; with none of them enabled the slot presents a control word that has no effect. -/
theorem oneEventInACycle : Obligations.OneEventInACycle := by
  intro s more w offered take ha hrst
  refine ⟨fun hstart hb => ?start, fun hr hoff tw ws hsrc => ?offer, fun hv htake => ?take,
    fun hb hin hout => ?nothing⟩
  case start => exact step_of_fetch_some ha (fetch_together_of_start hrst hstart hb)
  case offer =>
    subst hoff
    exact step_of_fetch_some ha ((fetch_together_of_inReady hrst hr).trans (fetchToken_of_source_cons hsrc))
  case take =>
    subst htake
    exact step_of_fetch_some ha (fetch_together_of_outValid hrst hv)
  case nothing =>
    rw [step_of_fetch_some ha (fetch_together_of_none_enabled hrst hb hin hout)]
    exact exec_decodeCtl_of_busy hrst hb

end Sys2Proof.Machine
end

section
/-! Reset and the mode (R21, R200, R266): which instructions can move `mode`. -/

namespace Sys2Proof.Machine

variable {tk : Token} {ts : List Token} {s t : State}

theorem mode_of_offer (h : offer tk s = .next t) : t.mode = s.mode := by
  rcases offer_frame h with ⟨-, rfl⟩ | ⟨-, hf, -⟩
  · rfl
  · exact hf.mode

theorem mode_of_feed (h : feed ts s = .next t) : t.mode = s.mode :=
  feed_induction (P := fun a b => b.mode = a.mode) (fun _ => rfl) (fun _ _ _ hab hbc => hbc.trans hab)
    (fun a _ => outStep_mode a) (fun _ _ _ => mode_of_offer) h

/-- A Start that moves the mode is an accepted one (R201, R202). -/
theorem not_busy_of_startInstr (m : Mode) (h : exec (startInstr m) s = .next t) (hne : t.mode ≠ s.mode) :
    s.busy = false := by
  cases hb : s.busy with
  | false => rfl
  | true =>
    cases (exec_startInstr_of_busy m hb).symm.trans h
    exact absurd rfl hne

/-- Settles O50: offers, and with them token rows and wire units, keep the mode, OUT and NOP do too, and a Start that is
ignored does nothing. -/
theorem modeChangesOnlyByStartOrReset : Obligations.ModeChangesOnlyByStartOrReset := by
  intro i s t h hne
  cases htok : i.token with
  | some tk => exact absurd (mode_of_offer (exec_eq_offer s i htok ▸ h)) hne
  | none =>
    cases i with
    | reset x => exact .inl ⟨x, rfl⟩
    | startEnc => exact .inr ⟨.inl rfl, not_busy_of_startInstr .enc h hne⟩
    | startDec => exact .inr ⟨.inr rfl, not_busy_of_startInstr .dec h hne⟩
    | nop => cases h; exact absurd rfl hne
    | out =>
      rcases exec_out_eq_next h with ⟨-, rfl⟩ | ⟨-, rfl⟩
      · exact absurd (outStep_mode s) hne
      · exact absurd rfl hne
    | lit | long | trunc0 | trunc1 => exact absurd (mode_of_feed h) hne
    | _ => cases htok

end Sys2Proof.Machine
end

section
/-! With fair slots a legal job ends (R271): a pair of slots, an offer and a take, brings the end nearer, since a token
accepted puts at most 65535 bytes into the output stage. -/

namespace Sys2Proof.Machine

variable {n : Nat} {s t : State} {more : List HostMove} {w : TokenWord} {ws : List TokenWord}

/-! ### What a slot does, said forwards -/

theorem step_of_agenda_tok (ha : s.agenda = .tok :: more) (hsrc : s.source = w :: ws) :
    step s = offer (tokenOf w) (s.setAgenda more) :=
  (step_of_fetch_some ha (fetchToken_of_source_cons hsrc)).trans (exec_decodeTok _ w _)

theorem step_of_agenda_out (ha : s.agenda = .out :: more) : step s = execOut (s.setAgenda more) :=
  step_of_fetch_some ha (fetch_out _)

/-- An offer that is not enabled passes, whether or not the source holds a token (R204). -/
theorem step_of_agenda_tok_of_not_inReady (ha : s.agenda = .tok :: more) (hr : s.inReady = false) :
    step s = .next (s.setAgenda more) := by
  cases hsrc : s.source with
  | nil => exact step_of_fetch_none ha (fetchToken_of_source_nil hsrc)
  | cons w ws => exact (step_of_agenda_tok ha hsrc).trans (offer_of_not_inReady _ hr)

theorem run_succ_of_step {M : Host.Core} {n : Nat} {a b : M.State} (h : M.step a = .next b) :
    M.run (n + 1) a = M.run n b := by
  simp only [Host.Core.run, h]

/-! ### What an accepted token leaves to be done -/

/-- `End` ends the job (R105, R106, R136 to R139). -/
theorem not_active_of_offer_eos (hr : s.inReady = true) (h : offer .eos s = .next t) : t.st.active = false := by
  rcases offer_cases h with ⟨hoff, -⟩ | ⟨-, -, h⟩ | ⟨-, -, h⟩
  · exact absurd hr (by simp [hoff])
  · rcases encAccept_cases h with ⟨_, ⟨⟩, _⟩ | ⟨_, ⟨⟩, _⟩ | ⟨_, ⟨⟩, _⟩ | ⟨_, ⟨⟩, _⟩ | ⟨-, -, rfl⟩ | ⟨-, -, -, rfl⟩
    exacts [rfl, rfl]
  · rcases decAccept_cases h with ⟨_, ⟨⟩, _⟩ | ⟨_, ⟨⟩, _⟩ | ⟨_, ⟨⟩, _⟩ | ⟨_, ⟨⟩, _⟩ | ⟨_, ⟨⟩, _⟩ | ⟨-, -, rfl⟩ |
      ⟨-, -, rfl⟩ | ⟨-, -, rfl⟩ | ⟨-, -, rfl⟩
    exacts [rfl, rfl, rfl, rfl]

/-- In a legal state at most one of `obuf` and `rep_cnt` holds bytes (R40 items 3 and 4). -/
theorem State.Legal.pendingOut_le (h : s.Legal) : s.pendingOut ≤ 65535 := by
  have hlen : s.obuf.length ≤ 4 := s.obuf.length_le
  have hrep := s.repCnt.isLt
  unfold State.pendingOut
  cases hq : s.obuf.isEmpty with
  | true => rw [(OutQueue.isEmpty_iff _).1 hq, OutQueue.length_empty]; omega
  | false =>
    have hrep0 : s.repCnt = 0#16 := by
      by_contra hne
      cases (h.obufEnc hq).symm.trans (h.repDec hne)
    rw [hrep0, BitVec.toNat_zero]
    omega

/-! ### The bound and what each slot does to it -/

/-- A legal state from which `n` pairs of slots, an offer and a take, are enough: one for each byte pending and, while
the job accepts tokens, 65536 for each token of the source, which holds an `End`. -/
structure EndsWithin (n : Nat) (s : State) : Prop where
  legal : s.Legal
  pending : s.pendingOut ≤ n
  source : s.st.active = true → .eos ∈ s.source.map tokenOf ∧ 65536 * s.source.length + s.pendingOut ≤ n

theorem EndsWithin.setAgenda (h : EndsWithin n s) (l : List HostMove) : EndsWithin n (s.setAgenda l) :=
  ⟨h.legal.setAgenda l, h.pending, h.source⟩

theorem EndsWithin.not_busy (h : EndsWithin 0 s) : s.busy = false := by
  have hv := s.pendingOut_eq_zero_iff.1 (Nat.le_zero.1 h.pending)
  have ha : s.st.active = false := by
    by_contra ha
    obtain ⟨heos, hbound⟩ := h.source (by simpa using ha)
    have hnil : s.source = [] := List.eq_nil_of_length_eq_zero (by omega)
    simp [hnil] at heos
  simp [State.busy, ha, hv]

/-- An accepted token is one token less, for at most 65535 bytes more. -/
theorem EndsWithin.offer_head (h : EndsWithin (n + 1) s) (hr : s.inReady = true) (hsrc : s.source = w :: ws) :
    ∃ t, offer (tokenOf w) s = .next t ∧ EndsWithin n t := by
  obtain ⟨t, ht, hlegal⟩ := endsLegal_offer (tokenOf w) h.legal
  obtain ⟨heos, hbound⟩ := h.source (s.inReady_iff.1 hr).1
  have htail : t.source = ws := by
    rcases offer_frame ht with ⟨hoff, -⟩ | ⟨-, hf, -⟩
    · exact absurd hr (by simp [hoff])
    · rw [hf.source, hsrc, List.tail_cons]
  have hpend := hlegal.pendingOut_le
  rw [hsrc, List.length_cons] at hbound
  refine ⟨t, ht, hlegal, by omega, fun ha => ⟨?_, by rw [htail]; omega⟩⟩
  have hne : tokenOf w ≠ .eos := fun hw => by
    simp [not_active_of_offer_eos hr (hw ▸ ht)] at ha
  rw [hsrc, List.map_cons, List.mem_cons] at heos
  rw [htail]
  exact heos.resolve_left hne.symm

theorem EndsWithin.outStep (h : EndsWithin (n + 1) s) (hv : s.outValid = true) : EndsWithin n (outStep s) := by
  have hless := pendingOut_outStep hv
  have hpend := h.pending
  refine ⟨h.legal.outStep hv, by omega, fun ha => ?_⟩
  rw [outStep_st] at ha
  obtain ⟨heos, hbound⟩ := h.source ha
  rw [outStep_source]
  exact ⟨heos, by omega⟩

theorem EndsWithin.succ (h : EndsWithin n s) : EndsWithin (n + 1) s := by
  refine ⟨h.legal, by have := h.pending; omega, fun ha => ?_⟩
  obtain ⟨heos, hbound⟩ := h.source ha
  exact ⟨heos, by omega⟩

/-- Where no byte is pending and no job accepts tokens, the job is over. -/
theorem EndsWithin.of_not_active (h : s.Legal) (hv : s.outValid = false) (ha : s.st.active = false) : EndsWithin n s :=
  ⟨h, by simp [s.pendingOut_eq_zero_iff.2 hv], fun ha' => absurd ha' (by simp [ha])⟩

/-- The offer of a pair is a step nearer to the end, unless a byte is pending; then it is held off. -/
theorem EndsWithin.step_tok (h : EndsWithin (n + 1) s) (ha : s.agenda = .tok :: more) :
    ∃ t, step s = .next t ∧ EndsWithin (n + 1) t ∧ (t.outValid = false → EndsWithin n t) := by
  have hu := h.setAgenda more
  cases hr : s.inReady with
  | true =>
    cases hsrc : s.source with
    | nil => simpa [hsrc] using (h.source (s.inReady_iff.1 hr).1).1
    | cons w ws =>
      obtain ⟨t, ht, hend⟩ := hu.offer_head hr hsrc
      exact ⟨t, (step_of_agenda_tok ha hsrc).trans ht, hend.succ, fun _ => hend⟩
  | false =>
    refine ⟨_, step_of_agenda_tok_of_not_inReady ha hr, hu, fun hv => .of_not_active hu.legal hv ?_⟩
    change s.outValid = false at hv
    simpa [State.inReady_eq, hv] using hr

/-- The take of a pair is a step nearer to the end where a byte is pending. -/
theorem EndsWithin.step_out (h : EndsWithin (n + 1) s) (hoffered : s.outValid = false → EndsWithin n s)
    (ha : s.agenda = .out :: more) : ∃ t, step s = .next t ∧ EndsWithin n t := by
  rw [step_of_agenda_out ha]
  cases hv : s.outValid with
  | true => exact ⟨_, if_pos hv, (h.setAgenda more).outStep hv⟩
  | false => exact ⟨_, if_neg (Bool.eq_false_iff.1 hv), (hoffered hv).setAgenda more⟩

/-- A pair of slots brings the end nearer by one. -/
theorem EndsWithin.pair (h : EndsWithin (n + 1) s) (ha : s.agenda = .tok :: .out :: more) :
    ∃ u t, step s = .next u ∧ step u = .next t ∧ t.agenda = more ∧ EndsWithin n t := by
  obtain ⟨u, hsu, hu, hoffered⟩ := h.step_tok ha
  have hau : u.agenda = .out :: more := by rw [agenda_of_step (by simp [ha]) hsu, ha, List.tail_cons]
  obtain ⟨t, hut, ht⟩ := hu.step_out hoffered hau
  exact ⟨u, t, hsu, hut, by rw [agenda_of_step (by simp [hau]) hut, hau, List.tail_cons], ht⟩

/-! ### The statement -/

theorem EndsWithin.run (h : EndsWithin n s)
    (ha : s.agenda = (List.replicate n [HostMove.tok, HostMove.out]).flatten ++ more) :
    ∃ t, core.run (2 * n) s = .next t ∧ t.busy = false ∧ t.agenda = more := by
  induction n generalizing s with
  | zero => exact ⟨s, rfl, h.not_busy, ha⟩
  | succ n ih =>
    obtain ⟨u, v, hsu, huv, hav, hv⟩ := h.pair ha
    obtain ⟨t, hrun, hend⟩ := ih hv hav
    exact ⟨t, (run_succ_of_step hsu).trans ((run_succ_of_step huv).trans hrun), hend⟩

/-- Settles O53: the bound of the statement is that of `EndsWithin`, which each pair of slots lowers by one. -/
theorem fairSlotsEndTheJob : Obligations.FairSlotsEndTheJob := by
  intro n s more hlegal heos ha hbound
  have h : EndsWithin n s := ⟨hlegal, by omega, fun _ => ⟨heos, hbound⟩⟩
  exact h.run ha

end Sys2Proof.Machine
end
